-- ==== Sys2Proof/Word.lean ====
section
/-! DEFINITION. The plainest types of the core: bits, bytes, and the two one-bit selections of a command. -/

namespace Sys2Proof

/-- One bit of a stream, `0` or `1` (00_scope.md R8): `false` is `0`, `true` is `1`. -/
abbrev Bit := Bool

/-- One byte of `SRCB` or `SNKB` (20_memory.md R35). -/
abbrev Byte := BitVec 8

/-- The contents of a 16-bit datapath register (10_state.md R13). -/
abbrev Half := BitVec 16

/-- `CTRL.MODE` (10_state.md R23): 0 is compress (encode), 1 is expand (decode). -/
inductive Mode where
  | compress
  | expand
deriving DecidableEq, Repr

/-- `CTRL.STRATEGY` (10_state.md R23): 0 is Position-Length (A), 1 is Alternating Run-Length (B). -/
inductive Strategy where
  | positionLength
  | alternating
deriving DecidableEq, Repr

end Sys2Proof
end

