-- ==== Sys2Proof/Config.lean ====
section
/-! DEFINITION. The parameters of 00_scope.md R6 and R7: the values the document fixes, the open parameter
`SRC_LEN_MAX`, and the free values of 93_implementation_defined.md (uninterpreted constants: nothing can
compute them). -/

namespace Sys2Proof.Config

/-- `PL_LEN_W`, width of the strategy A total-length field (R6). -/
def plLenW : Nat := 16
/-- `PL_LEN_MAX`, largest payload strategy A represents (R6). -/
def plLenMax : Nat := 65535
/-- `PL_START_W`, width of a strategy A start field (R6). -/
def plStartW : Nat := 16
/-- `PL_RUN_W`, width of a strategy A run-length field (R6). -/
def plRunW : Nat := 8
/-- `PL_RUN_MAX`, longest `1`-run strategy A represents (R6). -/
def plRunMax : Nat := 255
/-- `ARL_W`, width of a strategy B run-length field (R6). -/
def arlW : Nat := 8
/-- `CAP`, capacity of a strategy B field (R6). -/
def cap : Nat := 255
/-- First run value of strategy B: "`0`-run always first" (R6). -/
def firstRun : Bit := false
/-- Pad bit value at finalisation (R6). -/
def padBit : Bit := false
/-- Smallest width of the unsigned-field primitives (R6). -/
def fieldMin : Nat := 1
/-- Largest width of the unsigned-field primitives (R6). -/
def fieldMax : Nat := 32

/-- How far `SRC_LEN_MAX` lies above the 65536 that R7 and decision D13 require: OPEN, so uninterpreted. -/
opaque srcLenSlack : Nat

/-- `SRC_LEN_MAX`, the longest source a pass accepts (R7): unknown, at least 65536. -/
def srcLenMax : Nat := 65536 + srcLenSlack

/-- `LEN_W`, width of `SRC_LEN` and `SRC_POS`: the smallest `W` with `2^W > SRC_LEN_MAX` (R7). -/
def lenW : Nat := srcLenMax.size

/-- Width of `SNK_LEN` (R7). -/
def snkLenW : Nat := lenW + 5

/-- A pass of this length is inside the model, `SRC_LEN <= SRC_LEN_MAX` (R28, R122).
The first test is implied by the second; it lets lengths up to 65536 be decided without the open parameter. -/
def srcLenAllowed (n : Nat) : Bool := decide (n ≤ 65536) || decide (n ≤ srcLenMax)

/-- The value fits the `LEN_W` bits of the `SRC_LEN` register (R28).
The first test is implied by the second, as in `srcLenAllowed`. -/
def fitsSrcLen (n : Nat) : Bool := decide (n ≤ 65536) || decide (n < 2 ^ lenW)

/-- FREE VALUE (93 U1, U2): what a read of `SRC_POS` returns while `BUSY == 1` or after an error. -/
opaque freeSrcPos : Nat → Nat
/-- FREE VALUE (93 U1, U2): what a read of `SNK_LEN` returns while `BUSY == 1` or after an error. -/
opaque freeSnkLen : Nat → Nat
/-- FREE VALUE (93 U1, U2): the bytes of `SNKB` the host gets while `BUSY == 1` or after an error. -/
opaque freeSnkb : Nat → List Byte
/-- FREE VALUE (log entry 5): what `SRC_LEN` is left with by a write of a value that does not fit its `LEN_W` bits. -/
opaque freeSrcLen : Nat → Nat
/-- FREE VALUE (log entry 7): the source bit at an index the host's bytes do not reach, for the pass that
binds its source at this count. -/
opaque freeSrcBit : Nat → Nat → Bit

end Sys2Proof.Config
end

