-- ==== Sys2Proof/Machine/Bits.lean ====
section
/-! DEFINITION. Fields as bits and bits as bytes: `bits_W`, `val`, `Pack`, `Unpack`. -/

namespace Sys2Proof

/-- `bits_W(v)`: the `w` low bits of `v`, most significant first (00_scope.md R9, 20_memory.md R37). -/
def bits : Nat → Nat → List Bit
  | 0, _ => []
  | w + 1, v => v.testBit w :: bits w v

/-- `val(s)`: the number a bit sequence spells, most significant bit first (00_scope.md R9). -/
def val (s : List Bit) : Nat := s.foldl (fun acc b => 2 * acc + b.toNat) 0

/-- How many pad bits bring `n` bits to a byte boundary (20_memory.md R43). -/
def padCount (n : Nat) : Nat := (8 - n % 8) % 8

/-- `s` padded with zero bits to a byte boundary (40_framer.md R80). -/
def padded (s : List Bit) : List Bit := s ++ List.replicate (padCount s.length) Config.padBit

/-- `Pack(s)` (40_framer.md R80). -/
def pack (s : List Bit) : List Byte :=
  (List.range ((padded s).length / 8)).map fun k => BitVec.ofNat 8 (val (((padded s).drop (8 * k)).take 8))

/-- `Unpack(B)`: all the bits of a byte sequence (40_framer.md R81). -/
def unpackAll (bytes : List Byte) : List Bit := bytes.flatMap fun b => bits 8 b.toNat

/-- `Unpack(B, n)`: the first `n` bits of a byte sequence (40_framer.md R81). -/
def unpack (bytes : List Byte) (n : Nat) : List Bit := (unpackAll bytes).take n

end Sys2Proof
end

