-- ==== Sys2Proof/Syntax.lean ====
section
/-! DEFINITION. The instructions: one constructor per row of spec/opcode_table.json. -/

namespace Sys2Proof

/-- The four pass commands (30_encoding.md R55) and the four wire records a decoder executes (R58 to R61).
Every field is a plain unsigned integer (R62), so a natural; its width is checked by `Instr.wellFormed`. -/
inductive Instr where
  /-- `ENC.PL`: compress with Position-Length (42_position_length.md R91). -/
  | encPl
  /-- `ENC.ARL`: compress with Alternating Run-Length (43_alternating.md R107). -/
  | encArl
  /-- `DEC.PL`: expand a Position-Length stream (42_position_length.md R98). -/
  | decPl
  /-- `DEC.ARL`: expand an Alternating Run-Length stream (43_alternating.md R115). -/
  | decArl
  /-- `PL.HDR L`: the strategy A header (30_encoding.md R58). -/
  | plHdr (len : Nat)
  /-- `PL.RUN start, length`: one strategy A run record (30_encoding.md R59). -/
  | plRun (start length : Nat)
  /-- `ARL.Z z`: a strategy B zero-field (30_encoding.md R60). -/
  | arlZ (z : Nat)
  /-- `ARL.O o`: a strategy B one-field (30_encoding.md R61). -/
  | arlO (o : Nat)
deriving DecidableEq, Repr

end Sys2Proof
end

