-- ==== Sys2Proof/WellFormed.lean ====
section
/-! DEFINITION. Which terms of `Instr` are instructions: each field in the set of values its width allows. -/

namespace Sys2Proof

/-- `v` is in `u<w>`, the set 0..2^w - 1 (00_scope.md R9). -/
def inField (w v : Nat) : Bool := decide (v < 2 ^ w)

/-- Every field fits its width (30_encoding.md R58 to R61). The commands have no operand (R55). -/
def Instr.wellFormed : Instr → Bool
  | .encPl => true
  | .encArl => true
  | .decPl => true
  | .decArl => true
  | .plHdr len => inField Config.plLenW len
  | .plRun start length => inField Config.plStartW start && inField Config.plRunW length
  | .arlZ z => inField Config.arlW z
  | .arlO o => inField Config.arlW o

end Sys2Proof
end

