-- ==== Sys2Proof/Decode.lean ====
section
/-! DEFINITION. Decoding a command word or a wire record from its bits, and the encoder beside it.
No record has an opcode (30_encoding.md R56): the place a word stands in says which kind it is (R57). -/

namespace Sys2Proof

/-- The places a word can stand in: the command word of `CTRL` (R54), the header and the records of a strategy A
stream, the even and the odd fields of a strategy B stream (R57). -/
inductive Place where
  | command
  | plHeader
  | plRecord
  | arlZero
  | arlOne
deriving DecidableEq, Repr

/-- How many bits the word at a place has (30_encoding.md R53). -/
def Place.width : Place → Nat
  | .command => 2
  | .plHeader => Config.plLenW
  | .plRecord => Config.plStartW + Config.plRunW
  | .arlZero => Config.arlW
  | .arlOne => Config.arlW

/-- Why bits are no instruction: each kind of incomplete word by its name (30_encoding.md R68). -/
inductive DecodeReject where
  | shortCommand
  | shortHeader
  | shortRunRecord
  | shortZeroField
  | shortOneField
deriving DecidableEq, Repr

/-- The name of the incomplete word of a place. -/
def Place.reject : Place → DecodeReject
  | .command => .shortCommand
  | .plHeader => .shortHeader
  | .plRecord => .shortRunRecord
  | .arlZero => .shortZeroField
  | .arlOne => .shortOneField

/-- The command table of 30_encoding.md R55: `CMD[1]` is `MODE`, `CMD[0]` is `STRATEGY`. -/
def commandOf : Mode → Strategy → Instr
  | .compress, .positionLength => .encPl
  | .compress, .alternating => .encArl
  | .expand, .positionLength => .decPl
  | .expand, .alternating => .decArl

/-- `MODE` as a bit: 0 compress, 1 expand (10_state.md R23). -/
def modeOfBit (b : Bit) : Mode := if b then .expand else .compress

/-- `STRATEGY` as a bit: 0 Position-Length, 1 Alternating Run-Length (10_state.md R23). -/
def strategyOfBit (b : Bit) : Strategy := if b then .alternating else .positionLength

/-- The instruction whose fields are the bits `s` at a place (30_encoding.md R55, R58 to R62). -/
def decodeFields (p : Place) (s : List Bit) : Instr :=
  match p with
  | .command => commandOf (modeOfBit (s.getD 0 false)) (strategyOfBit (s.getD 1 false))
  | .plHeader => .plHdr (val (s.take Config.plLenW))
  | .plRecord => .plRun (val (s.take Config.plStartW)) (val ((s.drop Config.plStartW).take Config.plRunW))
  | .arlZero => .arlZ (val (s.take Config.arlW))
  | .arlOne => .arlO (val (s.take Config.arlW))

/-- Decoding, total on any bits: the instruction at a place and the bits that follow it (30_encoding.md R72).
Every complete word is an instruction (R56); an incomplete one is rejected by name (R68). -/
def decode (p : Place) (s : List Bit) : Except DecodeReject (Instr × List Bit) :=
  if s.length < p.width then .error p.reject
  else .ok (decodeFields p (s.take p.width), s.drop p.width)

/-- Decoding a wire record from bytes, earliest stream bit in bit 7 of the first byte (20_memory.md R37). -/
def decodeBytes (p : Place) (bytes : List Byte) : Except DecodeReject (Instr × List Bit) :=
  decode p (unpackAll bytes)

/-! ## The encoder -/

/-- The place an instruction stands in (30_encoding.md R57). -/
def Instr.place : Instr → Place
  | .encPl => .command
  | .encArl => .command
  | .decPl => .command
  | .decArl => .command
  | .plHdr _ => .plHeader
  | .plRun _ _ => .plRecord
  | .arlZ _ => .arlZero
  | .arlO _ => .arlOne

/-- The bits of an instruction, most significant first (30_encoding.md R55, R58 to R61). -/
def encode : Instr → List Bit
  | .encPl => [false, false]
  | .encArl => [false, true]
  | .decPl => [true, false]
  | .decArl => [true, true]
  | .plHdr len => bits Config.plLenW len
  | .plRun start length => bits Config.plStartW start ++ bits Config.plRunW length
  | .arlZ z => bits Config.arlW z
  | .arlO o => bits Config.arlW o

/-- The value a host writes to `CTRL` to give a command with `START` (10_state.md R23): `CMD` in bits 2:1. -/
def startWord (i : Instr) : Nat := 2 * val (encode i) + 1

/-! ## Words numbered as spec/opcode_table.json numbers them -/

/-- The place of a table word of `nbits` bits (log entry 11): the records differ in width, but a command and the two
8-bit fields do not once a command is given in a whole byte, so an 8-bit word of value 0 to 3 is taken as a command
and any other as the field that comes first in a strategy B stream, a zero-field. -/
def tablePlace (nbits w : Nat) : Option Place :=
  if nbits = 24 then some .plRecord
  else if nbits = 16 then some .plHeader
  else if nbits ≤ 8 ∧ w < 4 then some .command
  else if nbits = 8 then some .arlZero
  else none

/-- The bits of a table word at its place: bit 0 of `w` is the last stream bit (30_encoding.md R72). -/
def tableBits (p : Place) (w : Nat) : List Bit := bits p.width w

/-- The instruction the decoder reads from a word of the opcode table. -/
def decodeTableWord (nbits w : Nat) : Option Instr :=
  match tablePlace nbits w with
  | none => none
  | some p =>
    if 2 ^ nbits ≤ w then none
    else match decode p (tableBits p w) with
      | .ok (i, _) => some i
      | .error _ => none

end Sys2Proof
end

