-- ==== Sys2Proof/Machine/State.lean ====
section
/-! DEFINITION. The state of the core and of its host port, as plain data; the reasons a step can stop; reset. -/

namespace Sys2Proof.Machine

/-- `PHASE`, the control state (10_state.md R20). -/
inductive Phase where
  | idle
  | epCheck
  | epHdr
  | epScan
  | dpHdr
  | dpRun
  | dpTail
  | eaScan
  | daField
  | finish
deriving DecidableEq, Repr

/-- `STATUS.ECODE` (60_exceptions.md R134). The values 5 to 7 are never produced (10_state.md R24). -/
inductive ECode where
  | none
  | lengthOverflow
  | runLengthOverflow
  | truncatedStream
  | corruptStream
deriving DecidableEq, Repr

/-- What can reach the core from outside in one step (log entry 6). -/
inductive HostOp where
  /-- The host does nothing in this step: the core takes its own. -/
  | yield
  /-- A write of `data` to register `reg` (10_state.md R22). -/
  | write (reg data : Nat)
  /-- A read of register `reg` (10_state.md R22, 44_pass_control.md R129). -/
  | read (reg : Nat)
  /-- The host makes `SRCB` available (70_reset_and_hazards.md R156 step 2). -/
  | supply (bytes : List Byte)
  /-- The host collects `SNKB` (70_reset_and_hazards.md R156 step 5). -/
  | collect
  /-- The platform asserts reset (70_reset_and_hazards.md R153, R155). -/
  | reset
deriving DecidableEq, Repr

/-- The machine (10_state.md; INVENTORY.md lists every field with its rule). -/
structure State where
  /-- `x[RS]`, 16 bits (R13). -/
  rs : Half
  /-- `x[RL]`, `LEN_W` bits, a natural as decision D22 allows (R13). -/
  rl : Nat
  /-- `x[TL]`, 16 bits (R13). -/
  tl : Half
  /-- `RP`, the source read pointer (R17). -/
  rp : Nat
  /-- `INRUN` (R19). -/
  inRun : Bool
  /-- `FV` (R19). -/
  fv : Bit
  /-- `FIN` (R19). -/
  fin : Bool
  /-- `PHASE` (R20); `BUSY` is `PHASE != IDLE`. -/
  phase : Phase
  /-- `CTRL.STRATEGY` (R23). -/
  strategy : Strategy
  /-- `CTRL.MODE` (R23). -/
  mode : Mode
  /-- `STATUS.DONE` (R24). -/
  done : Bool
  /-- `STATUS.ECODE` (R24); `ERR` is `ECODE != 0`. -/
  ecode : ECode
  /-- `SRC_LEN` (R28). -/
  srcLen : Nat
  /-- `SRC`, the source stream bound at `START` (R25). -/
  src : List Bit
  /-- `SRCB`, the bytes the host has supplied (R25). -/
  srcb : List Byte
  /-- `SNK`, the sink stream (R26); `WP` is its length (R18). -/
  snk : List Bit
  /-- `SNKB`, the sink's bytes (R26). -/
  snkb : List Byte
  /-- The host operations still to come, the next one first (the model's own, log entry 6). -/
  inbox : List HostOp
  /-- What the last register read returned (the model's own, log entry 10). -/
  busData : Nat
  /-- What the last collection of `SNKB` returned (the model's own, log entry 10). -/
  busBytes : List Byte
  /-- What the free values of a pass are applied to (the model's own, log entry 9). -/
  fresh : Nat
  /-- How many values too wide for `SRC_LEN` have been written to it: what the free value each leaves there is applied to
  (the model's own, log entry 19). -/
  wideWrites : Nat
deriving DecidableEq, Repr

/-- Why the machine stops with a fault. -/
inductive Fault where
  /-- Raised by `RDBIT` on an exhausted source (40_framer.md R74, 93 U7). Safe: no operation of the core gets here,
  since each tests `ISEXH` first (R83 d). -/
  | endOfInput
deriving DecidableEq, Repr

/-- Why a step has no meaning. -/
inductive Refusal where
  /-- Raised by an arm of `exec` whose instruction has no meaning yet. Safe. -/
  | notModelled (mnemonic : String)
  /-- Raised by `START` when `SRC_LEN > SRC_LEN_MAX` (44_pass_control.md R122, 93 U8). Safe. -/
  | srcLenAboveMax
  /-- Raised by a host that changes `SRCB` during a pass (70_reset_and_hazards.md R161, 93 U3). Safe. -/
  | sourceChangedDuringPass
  /-- Raised by `WRBIT` and `WRUINT` after `FINALIZE` (40_framer.md R76, R77, 93 U4). Safe: the core never does it. -/
  | writeAfterFinalize
  /-- Raised by a second `FINALIZE` in a pass (40_framer.md R78, 93 U4). Safe: the core never does it. -/
  | finalizeTwice
  /-- Raised by `WRUINT(v, w)` with `v >= 2^w` (40_framer.md R77, 93 U5). Safe: the core never does it. -/
  | valueTooWide
  /-- Raised by `RDUINT` and `WRUINT` with a width outside 1..32 (40_framer.md R75, R77, 93 U6). Safe: the core never
  does it. -/
  | badFieldWidth
deriving DecidableEq, Repr

/-- What a step of the core answers. -/
abbrev Result := Host.Outcome State Fault Refusal

/-- The machine right after reset (10_state.md R32, 70_reset_and_hazards.md R153). The values of `rs`, `rl`, `tl` are
the model's (log entry 2); those of `inbox`, `busData`, `busBytes`, `fresh`, `wideWrites` belong
to the model's own fields. -/
def State.reset : State where
  rs := 0
  rl := 0
  tl := 0
  rp := 0
  inRun := false
  fv := false
  fin := false
  phase := .idle
  strategy := .positionLength
  mode := .compress
  done := false
  ecode := .none
  srcLen := 0
  src := []
  srcb := []
  snk := []
  snkb := []
  inbox := []
  busData := 0
  busBytes := []
  fresh := 0
  wideWrites := 0

end Sys2Proof.Machine
end

