-- ==== Sys2Proof/Machine/Flags.lean ====
section
/-! DEFINITION. The views the spec computes from the state (pointers, STATUS and CTRL bits), and the updates of the
three flags. -/

namespace Sys2Proof.Machine

/-- `WP`, equal to `len(SNK)` (10_state.md R18). -/
def State.wp (s : State) : Nat := s.snk.length

/-- `STATUS.BUSY`, equal to `PHASE != IDLE` (10_state.md R20, R24). -/
def State.busy (s : State) : Bool := s.phase != .idle

/-- `STATUS.ERR`, equal to `ECODE != 0` (10_state.md R24). -/
def State.err (s : State) : Bool := s.ecode != .none

/-- The operation `CTRL` selects (30_encoding.md R54, R55). -/
def State.command (s : State) : Instr := commandOf s.mode s.strategy

/-- The partial-byte accumulator: the sink bits that belong to no completed byte (10_state.md R21). -/
def State.partialByte (s : State) : List Bit := s.snk.drop (8 * (s.wp / 8))

/-- The bit `MODE` holds (10_state.md R23). -/
def modeBit : Mode → Nat
  | .compress => 0
  | .expand => 1

/-- The bit `STRATEGY` holds (10_state.md R23). -/
def strategyBit : Strategy → Nat
  | .positionLength => 0
  | .alternating => 1

/-- The code in `STATUS.ECODE` (60_exceptions.md R134). -/
def ECode.code : ECode → Nat
  | .none => 0
  | .lengthOverflow => 1
  | .runLengthOverflow => 2
  | .truncatedStream => 3
  | .corruptStream => 4

/-- What `CTRL` reads: `START` reads 0, `STRATEGY` in bit 1, `MODE` in bit 2, the rest 0 (10_state.md R23). -/
def State.ctrlWord (s : State) : Nat := 2 * strategyBit s.strategy + 4 * modeBit s.mode

/-- What `STATUS` reads: `BUSY`, `DONE`, `ERR` in bits 0 to 2, `ECODE` in bits 6:4, the rest 0 (10_state.md R24). -/
def State.statusWord (s : State) : Nat :=
  s.busy.toNat + 2 * s.done.toNat + 4 * s.err.toNat + 16 * s.ecode.code

/-- The result registers and `SNKB` mean something to the host: no pass is running and none has failed since `START`
or reset (44_pass_control.md R127, R131; 93 U1, U2). -/
def State.readable (s : State) : Bool := !s.busy && !s.err

/-- `INRUN <- 1` with the run's start and an empty count, on entering a `1`-run (42_position_length.md R94). -/
def State.enterRun (s : State) (start : Nat) : State :=
  { s with rs := BitVec.ofNat 16 start, rl := 0, inRun := true }

/-- `INRUN <- 0` (42_position_length.md R93 to R95). -/
def State.leaveRun (s : State) : State := { s with inRun := false }

/-- `FV <- b` (43_alternating.md R112, R116). -/
def State.setFv (s : State) (b : Bit) : State := { s with fv := b }

end Sys2Proof.Machine
end

