-- ==== Sys2Proof/Machine/Ops.lean ====
section
/-! DEFINITION. The shared operations: the bit-stream framer (40_framer.md), the escape-chain writer
(41_escape_chain.md), error entry (60_exceptions.md R141), and the start and the completion of a pass
(44_pass_control.md R123, R126). -/

namespace Sys2Proof.Machine

/-- Assignments in one pseudocode block take effect in the order written (00_scope.md R10); a stop ends the block. -/
def andThen (o : Result) (k : State → Result) : Result :=
  match o with
  | .next s => k s
  | .fault r => .fault r
  | .refused r => .refused r

/-! ## Plain updates -/

/-- `RP <- RP + n`: the only way `RP` moves within a pass (10_state.md R17). -/
def State.advance (s : State) (n : Nat) : State := { s with rp := s.rp + n }

/-- `MemWrite` at `WP`: the sink is append-only (00_scope.md R11, 10_state.md R26). -/
def State.append (s : State) (bs : List Bit) : State := { s with snk := s.snk ++ bs }

/-- `PHASE <- p` (10_state.md R20). -/
def State.goto (s : State) (p : Phase) : State := { s with phase := p }

/-- Error entry: `ECODE <- code(E)`, `PHASE <- FINISH`, nothing saved (60_exceptions.md R141). -/
def State.raise (s : State) (e : ECode) : State := { s with ecode := e, phase := .finish }

/-! ## Source operations -/

/-- `MemRead(addr, n)`: the number the `n` source bits from `addr` spell (00_scope.md R11). -/
def State.memRead (s : State) (addr n : Nat) : Nat := val ((s.src.drop addr).take n)

/-- `ISEXH()`: zero bits remain (40_framer.md R73, decision D6). -/
def State.isExh (s : State) : Bool := s.rp == s.srcLen

/-- `RDBIT()`: the next bit and the state after it; nothing on `EndOfInput` (40_framer.md R74). -/
def rdbit (s : State) : Option (Bit × State) :=
  if s.isExh then none
  else match s.src[s.rp]? with
    | some b => some (b, s.advance 1)
    | none => none

/-- What `RDUINT` answers (40_framer.md R75). -/
inductive ReadResult where
  | ok (v : Nat) (s : State)
  | endOfInput
  | badWidth

/-- `RDUINT(w)`: on a shortfall nothing is consumed (40_framer.md R75, decision D15); a width outside 1..32 is outside
the interface (93 U6). -/
def rduint (w : Nat) (s : State) : ReadResult :=
  if w < Config.fieldMin ∨ Config.fieldMax < w then .badWidth
  else if s.srcLen - s.rp < w then .endOfInput
  else .ok (s.memRead s.rp w) (s.advance w)

/-! ## Sink operations -/

/-- `WRBIT(b)` (40_framer.md R76). -/
def wrbit (b : Bit) (s : State) : Result :=
  if s.fin then .refused .writeAfterFinalize else .next (s.append [b])

/-- `WRUINT(v, w)` (40_framer.md R77). -/
def wruint (v w : Nat) (s : State) : Result :=
  if w < Config.fieldMin ∨ Config.fieldMax < w then .refused .badFieldWidth
  else if s.fin then .refused .writeAfterFinalize
  else if 2 ^ w ≤ v then .refused .valueTooWide
  else .next (s.append (bits w v))

/-- `EMIT(b, n)`: `n` successive `WRBIT(b)` (00_scope.md R11). -/
def emit (b : Bit) (n : Nat) (s : State) : Result :=
  if s.fin ∧ n ≠ 0 then .refused .writeAfterFinalize else .next (s.append (List.replicate n b))

/-- `SNKB <- Pack(SNK); FIN <- 1` (40_framer.md R78). -/
def State.seal (s : State) : State := { s with snkb := pack s.snk, fin := true }

/-- `FINALIZE()` (40_framer.md R78). -/
def finalize (s : State) : Result :=
  if s.fin then .refused .finalizeTwice else .next s.seal

/-! ## The escape-chain writer -/

/-- The loop of `Esc(n)`, with a bound on how often it may turn (41_escape_chain.md R85). -/
def escLoop : Nat → Nat → List Nat
  | 0, n => [n]
  | turns + 1, n => if Config.cap < n then Config.cap :: 0 :: escLoop turns (n - Config.cap) else [n]

/-- `Esc(n)`, the fields of one run length (41_escape_chain.md R85): `n` turns are more than enough. -/
def escFields (n : Nat) : List Nat := escLoop n n

/-- Writing 8-bit fields one after the other (43_alternating.md R110). -/
def writeFields : List Nat → State → Result
  | [], s => .next s
  | v :: vs, s => andThen (wruint v Config.arlW s) (writeFields vs)

/-- `ESC(n, f)`: `f`, the kind of field the chain starts in, does not affect the bits (41_escape_chain.md R85). -/
def esc (n : Nat) (_f : Bit) (s : State) : Result := writeFields (escFields n) s

/-! ## Error entry, start and completion of a pass -/

/-- `raise E` as the end of a step: error entry is taken, the machine goes on (60_exceptions.md R141). -/
def raise (e : ECode) (s : State) : Result := .next (s.raise e)

/-- `SRC := Unpack(SRCB, SRC_LEN)` (44_pass_control.md R123, 40_framer.md R81). Bits of `SRC_LEN` that the host's bytes
do not reach are free values (log entry 7). The bytes are those the host supplied last, for this pass or an earlier one
(DESIGN CHOICE, log entry 18). -/
def State.boundSource (s : State) : List Bit :=
  unpack s.srcb s.srcLen ++
    (List.range (s.srcLen - 8 * s.srcb.length)).map fun k => Config.freeSrcBit s.fresh k

/-- What `START` makes of the state: `MODE` and `STRATEGY` as written, and "begin the pass" of 44_pass_control.md R122,
R123. `x[RS]` and `x[TL]` are not initialised (log entry 3). -/
def State.begin (s : State) (m : Mode) (st : Strategy) (first : Phase) : State :=
  { s with
    mode := m, strategy := st,
    rp := 0, snk := [], snkb := [],
    inRun := false, fv := Config.firstRun, fin := false,
    rl := 0,
    ecode := .none, done := false,
    src := s.boundSource, fresh := s.fresh + 1,
    phase := first }

/-- `START` (44_pass_control.md R122, R123): a pass longer than `SRC_LEN_MAX` is outside the model. -/
def startPass (m : Mode) (st : Strategy) (first : Phase) (s : State) : Result :=
  if Config.srcLenAllowed s.srcLen then .next (s.begin m st first) else .refused .srcLenAboveMax

/-- `BUSY <- 0; DONE <- 1; PHASE <- IDLE`, the end of `FINISH` (44_pass_control.md R126). `SRCB` stays for a later
`START` (DESIGN CHOICE, log entry 18), and the datapath registers keep their values (DESIGN CHOICE, log entry 3). -/
def State.complete (s : State) : State := { s with done := true, phase := .idle }

/-- `FINISH`, on the success path and on every error path (44_pass_control.md R126). -/
def finish (s : State) : Result := andThen (finalize s) fun s => .next s.complete

/-- A command given while another pass runs: the whole write is ignored (44_pass_control.md R122). -/
def ignoredCommand (s : State) : Result := .next s

end Sys2Proof.Machine
end

