-- ==== Sys2Proof/Machine/Operands.lean ====
section
/-! DEFINITION. The operand forms: the source bits a record is decoded from, and the reading of one field of a record
by a decoder (40_framer.md R79). -/

namespace Sys2Proof.Machine

/-- The `w` source bits from `RP` on, as the record due there. Bits the source does not have are given as 0 and are
never used: the record's own `RDUINT` raises `TruncatedStream` before it takes such a field (log entry 12). -/
def State.window (s : State) (w : Nat) : List Bit :=
  let have_ := ((s.src.take s.srcLen).drop s.rp).take w
  have_ ++ List.replicate (w - have_.length) false

/-- The record due at `RP` at a place of the stream (30_encoding.md R57, R72). -/
def State.recordAt (s : State) (p : Place) : Instr := decodeFields p (s.window p.width)

/-- `v <- RDUINT(w)` in a decoder (40_framer.md R79), for a field whose value the instruction already carries: on a
shortfall `TruncatedStream`, else `RP` moves past the field and the rule goes on. -/
def readField (w : Nat) (s : State) (k : State → Result) : Result :=
  match rduint w s with
  | .ok _ s' => k s'
  | .endOfInput => raise .truncatedStream s
  | .badWidth => .refused .badFieldWidth

/-- `x[RS] <- v`, a 16-bit register (10_state.md R13). -/
def State.setRs (s : State) (v : Nat) : State := { s with rs := BitVec.ofNat 16 v }

/-- `x[RL] <- v` (10_state.md R13). -/
def State.setRl (s : State) (v : Nat) : State := { s with rl := v }

/-- `x[TL] <- v`, a 16-bit register (10_state.md R13). -/
def State.setTl (s : State) (v : Nat) : State := { s with tl := BitVec.ofNat 16 v }

end Sys2Proof.Machine
end

