-- ==== Sys2Proof/Machine/Alternating.lean ====
section
/-! DEFINITION. The Alternating Run-Length codec, strategy B (43_alternating.md): the meanings of `ARL.Z`, `ARL.O`,
`ENC.ARL` and `DEC.ARL`. -/

namespace Sys2Proof.Machine

/-! ## The records -/

/-- A field of value `n` met where the field value flag is `f`: `n` bits of value `f`, then the other kind of field is
due (R116). -/
def arlField (f : Bit) (n : Nat) (s : State) : Result :=
  readField Config.arlW s fun s => andThen (emit f n (s.setRl n)) fun s => .next (s.setFv (!f))

/-- `ARL.Z z` executed by `DEC.ARL` (R116 with `FV == 0`). -/
def execArlZ (z : Nat) (s : State) : Result := arlField false z s

/-- `ARL.O o` executed by `DEC.ARL` (R116 with `FV == 1`). -/
def execArlO (o : Nat) (s : State) : Result := arlField true o s

/-! ## ENC.ARL -/

/-- Phase `EA_SCAN` after the payload bit `b` was read (R112). -/
def eaScanBit (b : Bit) (s : State) : Result :=
  if b = s.fv then .next (s.setRl (s.rl + 1))
  else andThen (esc s.rl s.fv s) fun s => .next ((s.setFv b).setRl 1)

/-- Phase `EA_SCAN` at the end of the payload (R113). -/
def eaScanEnd (s : State) : Result :=
  andThen (if 0 < s.rl then esc s.rl s.fv s else .next s) fun s => .next (s.goto .finish)

/-- Phase `EA_SCAN` (R112, R113). -/
def eaScan (s : State) : Result :=
  if s.isExh then eaScanEnd s
  else match rdbit s with
    | some (b, s) => eaScanBit b s
    | none => .fault .endOfInput

/-- `ENC.ARL` (R107, R109): `START` from `IDLE`, then one step per payload bit, then `FINISH`. -/
def execEncArl (s : State) : Result :=
  match s.phase with
  | .idle => startPass .compress .alternating .eaScan s
  | .eaScan => eaScan s
  | .finish => finish s
  | .epCheck | .epHdr | .epScan | .dpHdr | .dpRun | .dpTail | .daField => ignoredCommand s

/-! ## DEC.ARL -/

/-- Phase `DA_FIELD`: the field due at `RP` is executed, of the kind `FV` says (R116), or the stream is over (R117). -/
def daField (s : State) : Result :=
  if s.isExh then .next (s.goto .finish)
  else if s.fv then execArlO (val ((s.window (Place.width .arlOne)).take Config.arlW)) s
  else execArlZ (val ((s.window (Place.width .arlZero)).take Config.arlW)) s

/-- `DEC.ARL` (R115): `START` from `IDLE`, then one field per step, then `FINISH`. -/
def execDecArl (s : State) : Result :=
  match s.phase with
  | .idle => startPass .expand .alternating .daField s
  | .daField => daField s
  | .finish => finish s
  | .epCheck | .epHdr | .epScan | .dpHdr | .dpRun | .dpTail | .eaScan => ignoredCommand s

end Sys2Proof.Machine
end

