-- ==== Sys2Proof/Machine/PositionLength.lean ====
section
/-! DEFINITION. The Position-Length codec, strategy A (42_position_length.md): the meanings of `PL.HDR`, `PL.RUN`,
`ENC.PL` and `DEC.PL`. -/

namespace Sys2Proof.Machine

/-! ## The records -/

/-- `PL.HDR L` executed by `DEC.PL` (R99). -/
def execPlHdr (len : Nat) (s : State) : Result :=
  readField Config.plLenW s fun s => .next ((s.setTl len).goto .dpRun)

/-- The two checks of a `PL.RUN` record and what it emits, once both fields are read (R100, R103). -/
def runRecordBody (s : State) : Result :=
  if s.rs.toNat < s.wp then raise .corruptStream s
  else if s.tl.toNat < s.rs.toNat + s.rl then raise .corruptStream s
  else andThen (emit false (s.rs.toNat - s.wp) s) (emit true s.rl)

/-- `PL.RUN start, length` executed by `DEC.PL` (R100). -/
def execPlRun (start length : Nat) (s : State) : Result :=
  readField Config.plStartW s fun s =>
    readField Config.plRunW (s.setRs start) fun s => runRecordBody (s.setRl length)

/-! ## ENC.PL -/

/-- Phase `EP_CHECK`, the length precondition (R92). -/
def epCheck (s : State) : Result :=
  if Config.plLenMax < s.srcLen then raise .lengthOverflow s else .next (s.goto .epHdr)

/-- Phase `EP_HDR`, the header (R93). -/
def epHdr (s : State) : Result :=
  andThen (wruint s.srcLen Config.plLenW s) fun s => .next (s.leaveRun.goto .epScan)

/-- One `PL.RUN` record for the run that ends here (R94, R95). -/
def writeRunRecord (s : State) : Result :=
  andThen (wruint s.rs.toNat Config.plStartW s) fun s =>
    andThen (wruint s.rl Config.plRunW s) fun s => .next s.leaveRun

/-- One more `1` of the current run; the 256th raises `RunLengthOverflow` (R94, R96). -/
def countOne (s : State) : Result :=
  if s.rl = Config.plRunMax then raise .runLengthOverflow s else .next (s.setRl (s.rl + 1))

/-- Phase `EP_SCAN` after the payload bit `b` was read (R94). -/
def epScanBit (b : Bit) (s : State) : Result :=
  if b then countOne (if s.inRun then s else s.enterRun (s.rp - 1))
  else if s.inRun then writeRunRecord s else .next s

/-- Phase `EP_SCAN` at the end of the payload (R95). -/
def epScanEnd (s : State) : Result :=
  andThen (if s.inRun then writeRunRecord s else .next s) fun s => .next (s.goto .finish)

/-- Phase `EP_SCAN` (R94, R95). -/
def epScan (s : State) : Result :=
  if s.isExh then epScanEnd s
  else match rdbit s with
    | some (b, s) => epScanBit b s
    | none => .fault .endOfInput

/-- `ENC.PL` (R91): `START` from `IDLE`, then the phases of the pass one step at a time, then `FINISH`. -/
def execEncPl (s : State) : Result :=
  match s.phase with
  | .idle => startPass .compress .positionLength .epCheck s
  | .epCheck => epCheck s
  | .epHdr => epHdr s
  | .epScan => epScan s
  | .finish => finish s
  | .dpHdr | .dpRun | .dpTail | .eaScan | .daField => ignoredCommand s

/-! ## DEC.PL -/

/-- Phase `DP_HDR`: the header due at `RP` is executed (R99). -/
def dpHdr (s : State) : Result := execPlHdr (val ((s.window (Place.width .plHeader)).take Config.plLenW)) s

/-- Phase `DP_RUN`: the record due at `RP` is executed (R100), or the record list is over (R101). -/
def dpRun (s : State) : Result :=
  if s.isExh then .next (s.goto .dpTail)
  else
    let record := s.window (Place.width .plRecord)
    execPlRun (val (record.take Config.plStartW)) (val ((record.drop Config.plStartW).take Config.plRunW)) s

/-- Phase `DP_TAIL`: `0`s up to the stated length (R102). -/
def dpTail (s : State) : Result :=
  andThen (emit false (s.tl.toNat - s.wp) s) fun s => .next (s.goto .finish)

/-- `DEC.PL` (R98): `START` from `IDLE`, then the phases of the pass one step at a time, then `FINISH`. -/
def execDecPl (s : State) : Result :=
  match s.phase with
  | .idle => startPass .expand .positionLength .dpHdr s
  | .dpHdr => dpHdr s
  | .dpRun => dpRun s
  | .dpTail => dpTail s
  | .finish => finish s
  | .epCheck | .epHdr | .epScan | .eaScan | .daField => ignoredCommand s

end Sys2Proof.Machine
end

