-- ==== Sys2Proof/Machine/Dispatch.lean ====
section
/-! DEFINITION. What each instruction does: one arm per constructor. -/

namespace Sys2Proof.Machine

def exec (i : Instr) (s : State) : Host.Outcome State Fault Refusal :=
  match i with
  -- the commands
  | .encPl => Sys2Proof.Machine.execEncPl s
  | .encArl => Sys2Proof.Machine.execEncArl s
  | .decPl => Sys2Proof.Machine.execDecPl s
  | .decArl => Sys2Proof.Machine.execDecArl s
  -- the wire records
  | .plHdr len => Sys2Proof.Machine.execPlHdr len s
  | .plRun start length => Sys2Proof.Machine.execPlRun start length s
  | .arlZ z => Sys2Proof.Machine.execArlZ z s
  | .arlO o => Sys2Proof.Machine.execArlO o s

end Sys2Proof.Machine
end

