-- ==== Sys2Proof/Machine/Fetch.lean ====
section
/-! DEFINITION. Which instruction the machine runs next, the host port (register reads and writes, source and sink
bytes, reset), and placing an instruction where the next step finds it. -/

namespace Sys2Proof.Machine

/-! ## The core's own step -/

/-- The place of the record that is due at `RP`: in a decoder phase whose source is not exhausted, what the grammar of
30_encoding.md R57 says; the header is due whatever the source holds (42_position_length.md R99). -/
def State.due (s : State) : Option Place :=
  match s.phase with
  | .dpHdr => some .plHeader
  | .dpRun => if s.isExh then none else some .plRecord
  | .daField => if s.isExh then none else some (if s.fv then .arlOne else .arlZero)
  | .idle | .epCheck | .epHdr | .epScan | .dpTail | .eaScan | .finish => none

/-- The instruction a core that is left to itself runs next (44_pass_control.md R124): the record that is due, else the
command whose phase it is; none in `IDLE`. -/
def fetch (s : State) : Option Instr :=
  match s.due with
  | some p => some (s.recordAt p)
  | none =>
    match s.phase with
    | .idle => none
    | .epCheck | .epHdr | .epScan => some .encPl
    | .dpHdr | .dpRun | .dpTail => some .decPl
    | .eaScan => some .encArl
    | .daField => some .decArl
    | .finish => some s.command

/-- One step of the core (44_pass_control.md R124). In `IDLE` the core has no step of its own: it waits. -/
def coreStep (s : State) : Result :=
  match fetch s with
  | none => .next s
  | some i => exec i s

/-! ## The host port -/

/-- The command word in a value written to `CTRL`, most significant bit first: `CMD == CTRL[2:1]` (30_encoding.md R54). -/
def ctrlCommand (data : Nat) : Instr := decodeFields .command [data.testBit 2, data.testBit 1]

/-- `STRATEGY <- w[1]; MODE <- w[2]` (44_pass_control.md R122). -/
def State.latch (s : State) (data : Nat) : State :=
  { s with strategy := strategyOfBit (data.testBit 1), mode := modeOfBit (data.testBit 2) }

/-- A host write of `CTRL` (44_pass_control.md R122): ignored while busy; with `START` the command runs. -/
def writeCtrl (data : Nat) (s : State) : Result :=
  if s.busy then .next s
  else if data.testBit 0 then exec (ctrlCommand data) s
  else .next (s.latch data)

/-- `SRC_LEN <- data` (10_state.md R28). -/
def State.setSrcLen (s : State) (data : Nat) : State := { s with srcLen := data }

/-- `SRC_LEN` after a write of a value that its `LEN_W` bits cannot hold: R28 states no result, so a free value of the
register's width (DESIGN CHOICE, log entry 5). The count it is applied to is one of its own, not `fresh`: the write leaves
what the host reads in the result registers as it is, after a failed pass as well (44_pass_control.md R126: they "hold
the result until the next `START`"; log entry 19). -/
def State.freeSrcLen (s : State) : State :=
  { s with srcLen := Config.freeSrcLen s.wideWrites % 2 ^ Config.lenW, wideWrites := s.wideWrites + 1 }

/-- A host write of `SRC_LEN` (10_state.md R28): ignored while busy; else the register takes the value, if it can hold
it. -/
def writeSrcLen (data : Nat) (s : State) : Result :=
  if s.busy then .next s
  else if Config.fitsSrcLen data then .next (s.setSrcLen data)
  else .next s.freeSrcLen

/-- A host write: the read-only registers and every other number ignore it (10_state.md R22). -/
def writeReg (reg data : Nat) (s : State) : Result :=
  match reg with
  | 0 => writeCtrl data s
  | 2 => writeSrcLen data s
  | _ => .next s

/-- `SRC_POS` as the host reads it: `RP`, or a free value of its width while busy and after an error (10_state.md R29,
44_pass_control.md R127, 93 U1, U2). -/
def State.srcPosRead (s : State) : Nat :=
  if s.readable then s.rp else Config.freeSrcPos s.fresh % 2 ^ Config.lenW

/-- `SNK_LEN` as the host reads it: `WP`, or a free value of its width while busy and after an error (10_state.md R27,
44_pass_control.md R127, 93 U1, U2). -/
def State.snkLenRead (s : State) : Nat :=
  if s.readable then s.wp else Config.freeSnkLen s.fresh % 2 ^ Config.snkLenW

/-- `SNKB` as the host collects it: whole bytes, free while busy and after an error (10_state.md R26,
60_exceptions.md R142, 93 U1, U2). -/
def State.snkbRead (s : State) : List Byte :=
  if s.readable then s.snkb else Config.freeSnkb s.fresh

/-- The value register `reg` reads; other numbers read 0 (10_state.md R22). -/
def State.regRead (s : State) (reg : Nat) : Nat :=
  match reg with
  | 0 => s.ctrlWord
  | 1 => s.statusWord
  | 2 => s.srcLen
  | 3 => s.srcPosRead
  | 4 => s.snkLenRead
  | _ => 0

/-- The count for the next free value the host reads: a new one for every read during a pass, whose values change
unseen; the same one after a failed pass, whose registers hold until the next `START` (44_pass_control.md R126; log
entry 9). -/
def State.freshAfterRead (s : State) : Nat := if s.busy then s.fresh + 1 else s.fresh

/-- A host read: no side effect on the core (44_pass_control.md R129). -/
def readReg (reg : Nat) (s : State) : State := { s with busData := s.regRead reg, fresh := s.freshAfterRead }

/-- The host collects `SNKB` (70_reset_and_hazards.md R156). -/
def collect (s : State) : State := { s with busBytes := s.snkbRead, fresh := s.freshAfterRead }

/-- `SRCB` as the host supplies it (10_state.md R25). -/
def State.setSrcb (s : State) (bytes : List Byte) : State := { s with srcb := bytes }

/-- The host supplies `SRCB` (70_reset_and_hazards.md R156); during a pass the model has no move for it (R161). -/
def supply (bytes : List Byte) (s : State) : Result :=
  if s.busy then .refused .sourceChangedDuringPass else .next (s.setSrcb bytes)

/-- Reset at any time: every piece of the core's state takes its value after reset (70_reset_and_hazards.md R153, R155).
The host's own side (`inbox`, `busData`, `busBytes`) and the counts of free values go on (log entry 15). -/
def hardReset (s : State) : State :=
  { State.reset with
    inbox := s.inbox, busData := s.busData, busBytes := s.busBytes, fresh := s.fresh, wideWrites := s.wideWrites }

/-- What one host operation does. -/
def hostStep (op : HostOp) (s : State) : Result :=
  match op with
  | .yield => coreStep s
  | .write reg data => writeReg reg data s
  | .read reg => .next (readReg reg s)
  | .supply bytes => supply bytes s
  | .collect => .next (collect s)
  | .reset => .next (hardReset s)

/-- The host operations still to come (log entry 6). -/
def State.withInbox (s : State) (ops : List HostOp) : State := { s with inbox := ops }

/-- One step of core and host: the next host operation if there is one, else the core's own step (log entry 6). -/
def machineStep (s : State) : Result :=
  match s.inbox with
  | [] => coreStep s
  | op :: rest => hostStep op (s.withInbox rest)

/-! ## Placing an instruction where the next step finds it -/

/-- A command that the next step gives: the core is idle and the host's next operation writes it to `CTRL` with `START`. -/
def State.placeCommand (s : State) (w : Nat) : State :=
  { s with phase := .idle, inbox := .write 0 (2 * w + 1) :: s.inbox }

/-- A record that the next step fetches: the source is that record, the decoder is in the phase that reads it, and the
core takes the next step. -/
def State.placeRecord (s : State) (record : List Bit) (st : Strategy) (p : Phase) (f : Bit) : State :=
  { s with
    mode := .expand, strategy := st, phase := p, fv := f,
    done := false, ecode := .none, fin := false,
    src := record, srcLen := record.length, rp := 0,
    inbox := .yield :: s.inbox }

/-- The word placed as its place requires (30_encoding.md R57). -/
def State.placeWord (s : State) (p : Place) (w : Nat) : State :=
  match p with
  | .command => s.placeCommand w
  | .plHeader => s.placeRecord (tableBits .plHeader w) .positionLength .dpHdr s.fv
  | .plRecord => s.placeRecord (tableBits .plRecord w) .positionLength .dpRun s.fv
  | .arlZero => s.placeRecord (tableBits .arlZero w) .alternating .daField false
  | .arlOne => s.placeRecord (tableBits .arlOne w) .alternating .daField true

end Sys2Proof.Machine
end

