-- ==== Sys2Proof/Machine/Step.lean ====
section
/-! DEFINITION. The step of the machine, and a state whose next step runs a given table word. -/

namespace Sys2Proof.Machine

/-- One step (44_pass_control.md R124 for the core, R122 and 10_state.md R22 for the host). -/
def step (s : State) : Host.Outcome State Fault Refusal := machineStep s

/-- `s` with the instruction of a table word placed where `step` takes its next instruction (log entry 6). A word that
is no instruction changes nothing. -/
def State.withFetchWord (s : State) (nbits w : Nat) : State :=
  match tablePlace nbits w with
  | none => s
  | some p => s.placeWord p w

end Sys2Proof.Machine
end

