-- ==== Sys2Proof/Machine/Codec.lean ====
section
/-! DEFINITION. The four operations as functions from a source to a result (42_position_length.md R105,
43_alternating.md R120): what a pass must compute, written without the phases. -/

namespace Sys2Proof.Machine

/-- The result of an operation: the sink bits, or the exception (60_exceptions.md R134). -/
inductive PassResult where
  | ok (out : List Bit)
  | error (e : ECode)
deriving DecidableEq, Repr

/-! ## Strategy A -/

/-- The maximal runs of `1`s of `b` as (start, length), `b` starting at index `at_`; `turns` bounds their number. -/
def runs1From : Nat → Nat → List Bit → List (Nat × Nat)
  | 0, _, _ => []
  | turns + 1, at_, b =>
    let gap := (b.takeWhile (· == false)).length
    let b := b.dropWhile (· == false)
    let run := (b.takeWhile (· == true)).length
    if b = [] then []
    else (at_ + gap, run) :: runs1From turns (at_ + gap + run) (b.dropWhile (· == true))

/-- `runs1(b)`: start index and length of each maximal run of `1`s, in increasing order (R105). -/
def runs1 (b : List Bit) : List (Nat × Nat) := runs1From (b.length + 1) 0 b

/-- The record of one run: `bits_16(s) ++ bits_8(n)` (R105). -/
def runRecordBits (r : Nat × Nat) : List Bit := bits Config.plStartW r.1 ++ bits Config.plRunW r.2

/-- `EncPL(b)` (R105). -/
def encPL (b : List Bit) : PassResult :=
  if Config.plLenMax < b.length then .error .lengthOverflow
  else if (runs1 b).any (fun r => decide (Config.plRunMax < r.2)) then .error .runLengthOverflow
  else .ok (bits Config.plLenW b.length ++ (runs1 b).flatMap runRecordBits)

/-- The records of a strategy A stream, `out` being what is already emitted and `len` the stated length; `turns` bounds
their number (the local function `go` of R105). -/
def decPLFrom : Nat → Nat → List Bit → List Bit → PassResult
  | turns, len, s, out =>
    if s = [] then .ok (out ++ List.replicate (len - out.length) false)
    else if s.length < 24 then .error .truncatedStream
    else
      let start := val (s.take 16)
      let length := val ((s.drop 16).take 8)
      if start < out.length then .error .corruptStream
      else if len < start + length then .error .corruptStream
      else match turns with
        | 0 => .error .truncatedStream
        | turns + 1 =>
          decPLFrom turns len (s.drop 24)
            (out ++ List.replicate (start - out.length) false ++ List.replicate length true)

/-- `DecPL(s)` (R105). -/
def decPL (s : List Bit) : PassResult :=
  if s.length < 16 then .error .truncatedStream
  else decPLFrom s.length (val (s.take 16)) (s.drop 16) []

/-! ## Strategy B -/

/-- The lengths of the alternating runs of `b`, the first of value `v`; `turns` bounds their number. -/
def altRunsFrom : Nat → Bit → List Bit → List Nat
  | 0, _, _ => []
  | turns + 1, v, b =>
    if b = [] then []
    else (b.takeWhile (· == v)).length :: altRunsFrom turns (!v) (b.dropWhile (· == v))

/-- `altruns(b)`: the run lengths starting with a possibly empty run of `0`s (R120). -/
def altRuns (b : List Bit) : List Nat := altRunsFrom (b.length + 1) Config.firstRun b

/-- The fields of a run list, each run through the escape-chain writer (R110, R120). -/
def arlFields (runs : List Nat) : List Nat := runs.flatMap escFields

/-- `EncARL(b)` (R120). -/
def encARL (b : List Bit) : List Bit := (arlFields (altRuns b)).flatMap (bits Config.arlW)

/-- The fields of a strategy B stream from a field of kind `fv` on, `out` being what is already emitted; `turns` bounds
their number (the local function `go` of R120). -/
def decARLFrom : Nat → Bit → List Bit → List Bit → PassResult
  | turns, fv, s, out =>
    if s = [] then .ok out
    else if s.length < 8 then .error .truncatedStream
    else match turns with
      | 0 => .error .truncatedStream
      | turns + 1 => decARLFrom turns (!fv) (s.drop 8) (out ++ List.replicate (val (s.take 8)) fv)

/-- `DecARL(s)` (R120). -/
def decARL (s : List Bit) : PassResult := decARLFrom s.length Config.firstRun s []

end Sys2Proof.Machine
end

