-- ==== Sys2Proof/Safety.lean ====
section
/-! DEFINITION. The terms claims are stated in: runs, the invariant of a pass, what a pass ends in, which stops a run
can meet. -/

namespace Sys2Proof.Machine

/-- `k` steps, stopping at the first fault or refusal. -/
def run : Nat → State → Result
  | 0, s => .next s
  | k + 1, s => andThen (step s) (run k)

/-- The command whose phase it is; none for `IDLE`, which has no command, and `FINISH`, which all four share
(10_state.md R20). -/
def Phase.owner : Phase → Option Instr
  | .idle | .finish => none
  | .epCheck | .epHdr | .epScan => some .encPl
  | .dpHdr | .dpRun | .dpTail => some .decPl
  | .eaScan => some .encArl
  | .daField => some .decArl

/-- The phases that begin a pass, before anything is read or written (44_pass_control.md R123, 42_position_length.md
R92, R93, R99). -/
def Phase.opening : Phase → Bool
  | .epCheck | .epHdr | .dpHdr => true
  | .idle | .epScan | .dpRun | .dpTail | .eaScan | .daField | .finish => false

/-- The phases in which a decoder stands at a record boundary (10_state.md R33 f). -/
def Phase.atRecord : Phase → Bool
  | .dpHdr | .dpRun | .daField => true
  | .idle | .epCheck | .epHdr | .epScan | .dpTail | .eaScan | .finish => false

/-- What holds at every step of the machine (10_state.md R15, R17, R18, R24, R28, R29, R33; 20_memory.md R40;
42_position_length.md R92, R102). -/
structure Inv (s : State) : Prop where
  /-- `SRC_LEN` fits its register (R28). -/
  srcLen_fits : s.srcLen < 2 ^ Config.lenW
  /-- `RP` fits its register (R17). -/
  rp_fits : s.rp < 2 ^ Config.lenW
  /-- `WP`, which the host reads as `SNK_LEN`, fits its register of `LEN_W + 5` bits (R18, 20_memory.md R40). -/
  wp_fits : s.wp < 2 ^ Config.snkLenW
  /-- `x[RL]` fits its register (R13). -/
  rl_fits : s.rl < 2 ^ Config.lenW
  /-- A finalised sink has its bytes (R33 c). -/
  fin_packed : s.fin = true → s.snkb = pack s.snk
  /-- A completed pass is idle and finalised (44_pass_control.md R126). -/
  done_closed : s.done = true → s.phase = .idle ∧ s.fin = true
  /-- `BUSY` and `DONE` are never both 1 (R24), and the sink of a running pass is not finalised (R126). -/
  busy_open : s.busy = true → s.done = false ∧ s.fin = false
  /-- The source of a running pass has `SRC_LEN` bits, within `SRC_LEN_MAX` (R25, R28). -/
  busy_source : s.busy = true → s.src.length = s.srcLen ∧ Config.srcLenAllowed s.srcLen = true
  /-- `0 <= RP <= SRC_LEN` (R33 a). -/
  busy_rp : s.busy = true → s.rp ≤ s.srcLen
  /-- After error entry a pass only finishes (R33 e). -/
  error_finishes : s.busy = true → s.ecode ≠ .none → s.phase = .finish
  /-- A pass is in a phase of the command `CTRL` holds (R20). -/
  owner_command : ∀ i, s.phase.owner = some i → s.command = i
  /-- A pass begins at the start of both streams (R44, R92). -/
  opening_empty : s.phase.opening = true → s.rp = 0 ∧ s.snk = []
  /-- `ENC.PL` past its check has a length that fits the header (R92). -/
  plHdr_fits : s.phase = .epHdr ∨ s.phase = .epScan → s.srcLen ≤ Config.plLenMax
  /-- The current `1`-run of `ENC.PL` ends at the cursor, and its count fits the field (R15, R16). -/
  plRun_counts : s.phase = .epScan → s.inRun = true → 1 ≤ s.rl ∧ s.rl ≤ Config.plRunMax ∧ s.rs.toNat + s.rl = s.rp
  /-- `ENC.ARL` counts bits it has read, and has a count as soon as it has read one (R15, 43_alternating.md R113). -/
  arl_counts : s.phase = .eaScan → s.rl ≤ s.rp ∧ (s.rl = 0 → s.rp = 0)
  /-- `ENC.PL` has written its header and at most one record per two bits read, the record of an open `1`-run counted in
  (20_memory.md R40). -/
  plSink_bounded : s.phase = .epScan → s.wp + 24 * s.inRun.toNat ≤ 16 + 24 * ((s.rp + s.inRun.toNat) / 2)
  /-- `ENC.ARL` has written at most one field per bit read, those of the open run counted in, and a leading one
  (20_memory.md R40). -/
  arlSink_bounded : s.phase = .eaScan → s.wp + 8 * s.rl ≤ 8 * (s.rp + 1) ∧ (s.rl = 0 → s.snk = [])
  /-- `DEC.ARL` has emitted at most 255 bits per field read (20_memory.md R40). -/
  arlOut_bounded : s.phase = .daField → s.wp ≤ 255 * (s.rp / 8)
  /-- `DEC.PL` never passes the stated length (42_position_length.md R102). -/
  plOut_bounded : s.phase = .dpRun ∨ s.phase = .dpTail → s.wp ≤ s.tl.toNat
  /-- A decoder with a source of whole bytes stands at a byte boundary (R33 f). -/
  record_aligned : s.phase.atRecord = true → s.srcLen % 8 = 0 → s.rp % 8 = 0
  /-- A pass that ends without an error has read its whole source (R29). -/
  success_read : s.phase = .dpTail ∨ s.phase = .finish ∨ s.done = true → s.ecode = .none → s.rp = s.src.length

/-- The host has set up a pass: the core is idle, the length is within the model, the bytes are there, and no host
operation is waiting (70_reset_and_hazards.md R156). -/
def PassReady (s : State) : Prop :=
  s.phase = .idle ∧ s.inbox = [] ∧ Config.srcLenAllowed s.srcLen = true ∧ s.srcLen ≤ 8 * s.srcb.length

/-- The source of the pass that starts at `s` (44_pass_control.md R123). -/
def State.payload (s : State) : List Bit := unpack s.srcb s.srcLen

/-- What the host observes at `t` of a completed pass with result `r`, started at `s` (44_pass_control.md R127): on
success `STATUS`, `SNKB`, `SNK_LEN` and `SRC_POS`, on error `STATUS` alone. -/
def PassEnds (r : PassResult) (s t : State) : Prop :=
  t.phase = .idle ∧ t.srcLen = s.srcLen ∧
    match r with
    | .ok out => t.statusWord = 2 ∧ t.snk = out ∧ t.snkbRead = pack out ∧ t.snkLenRead = out.length ∧
        t.srcPosRead = s.srcLen
    | .error e => t.statusWord = 6 + 16 * e.code

/-- The command computes the function `f` of its source, in the steps the spec allows: `START` is one of them
(44_pass_control.md R127, R128, R131). -/
def PassComputes (i : Instr) (f : List Bit → PassResult) : Prop :=
  ∀ s, PassReady s → ∃ k t, k + 1 ≤ s.srcLen + 5 ∧ andThen (exec i s) (run k) = .next t ∧ t.command = i ∧
    PassEnds (f s.payload) s t

/-- Two states in the same place of the same pass: equal in all a later step or the host's reading of a result depends
on (44_pass_control.md R132). The datapath registers count only during the pass, and `x[RS]` and `x[TL]` only while it
holds a value in them (93 U9); `RP` and the sink count only while no error is raised, since nothing is promised of them
after one (60_exceptions.md R142). -/
structure SamePass (s t : State) : Prop where
  phase : s.phase = t.phase
  command : s.command = t.command
  status : s.done = t.done ∧ s.ecode = t.ecode
  flags : s.inRun = t.inRun ∧ s.fv = t.fv ∧ s.fin = t.fin
  source : s.src = t.src ∧ s.srcLen = t.srcLen
  streams : s.ecode = .none → s.rp = t.rp ∧ s.snk = t.snk ∧ s.snkb = t.snkb
  rl : s.phase ≠ .idle → s.rl = t.rl
  rs : s.phase = .epScan → s.inRun = true → s.rs = t.rs
  tl : s.phase = .dpRun ∨ s.phase = .dpTail → s.tl = t.tl

/-- The phases a phase can lead to while the host does nothing (44_pass_control.md R125). `IDLE` waits (R124). -/
def Phase.mayFollow : Phase → List Phase
  | .idle => [.idle]
  | .epCheck => [.epHdr, .finish]
  | .epHdr => [.epScan]
  | .epScan => [.epScan, .finish]
  | .eaScan => [.eaScan, .finish]
  | .dpHdr => [.dpRun, .finish]
  | .dpRun => [.dpRun, .dpTail, .finish]
  | .dpTail => [.finish]
  | .daField => [.daField, .finish]
  | .finish => [.idle]

/-- The cause of each exception, in terms of the state whose step raises it (60_exceptions.md R134 to R138). -/
def RaisedFor (s : State) : ECode → Prop
  | .none => False
  | .lengthOverflow => s.phase = .epCheck ∧ 65535 < s.srcLen
  | .runLengthOverflow => s.phase = .epScan ∧ s.inRun = true ∧ s.rl = 255 ∧ s.src[s.rp]? = some true
  | .truncatedStream => ∃ p, s.due = some p ∧ s.srcLen - s.rp < p.width
  | .corruptStream => s.phase = .dpRun ∧ 24 ≤ s.srcLen - s.rp ∧
      (s.memRead s.rp 16 < s.wp ∨ s.tl.toNat < s.memRead s.rp 16 + s.memRead (s.rp + 16) 8)

/-- Every value the spec gives for after reset (10_state.md R32, 70_reset_and_hazards.md R153). -/
def AfterReset (s : State) : Prop :=
  s.phase = .idle ∧ s.mode = .compress ∧ s.strategy = .positionLength ∧ s.ctrlWord = 0 ∧
  s.done = false ∧ s.ecode = .none ∧ s.statusWord = 0 ∧ s.srcLen = 0 ∧ s.rp = 0 ∧ s.wp = 0 ∧
  s.inRun = false ∧ s.fv = false ∧ s.fin = false ∧ s.src = [] ∧ s.snk = [] ∧ s.snkb = []

/-- The bits of value `v`, `!v`, `v`, ... that a list of run lengths stands for (43_alternating.md R120). -/
def alternate : Bit → List Nat → List Bit
  | _, [] => []
  | v, r :: rs => List.replicate r v ++ alternate (!v) rs

/-- The elements at the offsets 0, 2, 4, ... of a list (41_escape_chain.md R87). -/
def evenOffsets : List Nat → List Nat
  | [] => []
  | [a] => [a]
  | a :: _ :: l => a :: evenOffsets l

/-- `b` has `n` bits of value `1` from index `s` on, and neither neighbour is a `1` (42_position_length.md R105). -/
def MaximalRun (b : List Bit) (s n : Nat) : Prop :=
  1 ≤ n ∧ s + n ≤ b.length ∧ (∀ k, s ≤ k → k < s + n → b[k]? = some true) ∧
    (s = 0 ∨ b[s - 1]? = some false) ∧ b[s + n]? ≠ some true

/-- The stops that the host can bring about; no other is met from a state that meets `Inv` (40_framer.md R83). -/
def Refusal.byHost (r : Refusal) : Bool :=
  r == .srcLenAboveMax || r == .sourceChangedDuringPass

end Sys2Proof.Machine
end

