-- ==== Sys2Proof/Certificates/Slice0/Obligations.lean ====
section
/-! DEFINITION. The statements for the provers, in the order of OBLIGATIONS.json. -/

open Sys2Proof Sys2Proof.Machine

/-! ## Encoding -/

/-- 30_encoding.md R55, R58 to R62: no bit of an encoding is dropped. -/
def Obligations.DecodeOfEncode : Prop :=
  ∀ (i : Instr) (rest : List Bit), i.wellFormed = true → decode i.place (encode i ++ rest) = .ok (i, rest)

/-- 30_encoding.md R56, R68, R72: "every bit pattern of the right width at the right position is that record"; only an
incomplete word is rejected, by its name. -/
def Obligations.EveryCompleteWordIsAnInstruction : Prop :=
  ∀ (p : Place) (s : List Bit),
    (s.length < p.width → decode p s = .error p.reject) ∧
    (p.width ≤ s.length → ∃ i rest, decode p s = .ok (i, rest) ∧ i.wellFormed = true ∧ i.place = p ∧
      encode i ++ rest = s)

/-- Words written out from the layouts of 30_encoding.md R55, R58 to R61 and the bit order of 20_memory.md R37. -/
def Obligations.WrittenWordsDecode : Prop :=
  decode .command [false, false] = .ok (.encPl, []) ∧ decode .command [false, true] = .ok (.encArl, []) ∧
  decode .command [true, false] = .ok (.decPl, []) ∧ decode .command [true, true] = .ok (.decArl, []) ∧
  decodeBytes .plHeader [0x04, 0x08] = .ok (.plHdr 1032, []) ∧
  decodeBytes .plRecord [0x01, 0x04, 0xFF] = .ok (.plRun 260 255, []) ∧
  decodeBytes .arlZero [0x2D] = .ok (.arlZ 45, []) ∧ decodeBytes .arlOne [0x2D] = .ok (.arlO 45, []) ∧
  decodeBytes .plHeader [0x04] = .error .shortHeader

/-! ## The step -/

/-- 44_pass_control.md R124, 30_encoding.md R72: while the host does nothing, a complete record that is due at `RP` is
decoded from the source bits there and run. What "the host does nothing" is, is log entry 6. -/
def Obligations.StepRunsTheRecordAtRP : Prop :=
  ∀ (s : State) (p : Place) (i : Instr) (rest : List Bit), s.due = some p →
    decode p ((s.src.take s.srcLen).drop s.rp) = .ok (i, rest) →
    (s.inbox = [] → step s = exec i s) ∧
    (∀ ops, s.inbox = .yield :: ops → step s = exec i { s with inbox := ops })

/-- 44_pass_control.md R124: at every step of a pass the command of the pass is what runs; where a record is due, its
meaning is that record's. That `exec` of a command goes through its whole pass is the model's reading (log entry 14). -/
def Obligations.StepIsTheCommandsNextStep : Prop :=
  ∀ s : State, Inv s → s.busy = true → s.inbox = [] → step s = exec s.command s

/-- 44_pass_control.md R124: "In `IDLE` the core has no step of its own". -/
def Obligations.IdleCoreWaits : Prop :=
  ∀ s : State, s.phase = .idle →
    (s.inbox = [] → step s = .next s) ∧
    (∀ ops, s.inbox = .yield :: ops → step s = .next { s with inbox := ops })

/-- The word that `withFetchWord` places is the one the next step runs (log entries 6 and 11). -/
def Obligations.PlacedWordRuns : Prop :=
  ∀ (s : State) (nbits w : Nat) (i : Instr), decodeTableWord nbits w = some i →
    step (s.withFetchWord nbits w) = exec i { s.withFetchWord nbits w with inbox := s.inbox }

/-! ## The host port -/

/-- 44_pass_control.md R122: a host write of `CTRL`. The command of a write with `START` is the one its `CMD` bits
decode to, and what it does is what `exec` does with it. -/
def Obligations.CtrlWrite : Prop :=
  ∀ (s : State) (w : Nat) (ops : List HostOp), s.inbox = .write 0 w :: ops →
    (s.busy = true → step s = .next { s with inbox := ops }) ∧
    (s.busy = false → w.testBit 0 = false →
      step s = .next { s with
        inbox := ops
        strategy := if w.testBit 1 then .alternating else .positionLength
        mode := if w.testBit 2 then .expand else .compress }) ∧
    (s.busy = false → w.testBit 0 = true →
      ∃ i, decode .command [w.testBit 2, w.testBit 1] = .ok (i, []) ∧ step s = exec i { s with inbox := ops })

/-- 10_state.md R28, 00_scope.md R7: a host write of `SRC_LEN`, which can hold every length up to `SRC_LEN_MAX`. That a
value above `SRC_LEN_MAX` which the register can hold is stored, and that one it cannot hold leaves some value of its
width (a free value), is the model's choice (log entry 5); `wideWrites` is its own count of such
writes, and that one leaves `fresh`, so what the host reads in the result registers after a failed pass, as it was is its
choice too (log entry 19). That the host's write is a step of its own is log entry 6. -/
def Obligations.SrcLenWrite : Prop :=
  Config.srcLenMax < 2 ^ Config.lenW ∧
  ∀ (s : State) (v : Nat) (ops : List HostOp), s.inbox = .write 2 v :: ops →
    (s.busy = true → step s = .next { s with inbox := ops }) ∧
    (s.busy = false → v < 2 ^ Config.lenW → step s = .next { s with inbox := ops, srcLen := v }) ∧
    (s.busy = false → 2 ^ Config.lenW ≤ v →
      ∃ t, step s = .next t ∧ t.srcLen < 2 ^ Config.lenW ∧
        t = { s with inbox := ops, srcLen := t.srcLen, wideWrites := t.wideWrites })

/-- 10_state.md R22: "A write to a read-only register is ignored. A read or write of any other register number is
ignored (a read returns 0)." -/
def Obligations.OtherRegisters : Prop :=
  ∀ (s : State) (reg v : Nat) (ops : List HostOp),
    (s.inbox = .write reg v :: ops → reg ≠ 0 → reg ≠ 2 → step s = .next { s with inbox := ops }) ∧
    (s.inbox = .read reg :: ops → 4 < reg →
      ∃ t, step s = .next t ∧ t.busData = 0 ∧ t = { s with inbox := ops, busData := t.busData, fresh := t.fresh })

/-- 44_pass_control.md R129, R127: a read changes nothing of the core, and after a completed pass without error (or
with no pass since reset) `SRC_POS`, `SNK_LEN` and `SNKB` read what their rules say. That `CTRL`, `STATUS` and `SRC_LEN`
read exactly in every state, a running pass and the state between a raise and `FINISH` included (where 95 part 2.8 gives
`STATUS == 01`), is the model's reading (log entry 16, DEDUCED). `fresh`, `busData` and `busBytes` are the model's own
(log entries 9, 10). -/
def Obligations.HostReads : Prop :=
  ∀ (s : State) (reg : Nat) (ops : List HostOp),
    (s.inbox = .read reg :: ops →
      ∃ t, step s = .next t ∧ t = { s with inbox := ops, busData := t.busData, fresh := t.fresh } ∧
        (reg = 0 → t.busData = s.ctrlWord) ∧ (reg = 1 → t.busData = s.statusWord) ∧
        (reg = 2 → t.busData = s.srcLen) ∧
        (s.busy = false → s.ecode = .none →
          (reg = 3 → t.busData = s.rp) ∧ (reg = 4 → t.busData = s.snk.length))) ∧
    (s.inbox = .collect :: ops →
      ∃ t, step s = .next t ∧ t = { s with inbox := ops, busBytes := t.busBytes, fresh := t.fresh } ∧
        (s.busy = false → s.ecode = .none → t.busBytes = s.snkb))

/-- 60_exceptions.md R142, 70_reset_and_hazards.md R162, 93 U1, U2: during a pass and after an error the host's reads
tell it nothing of the pointers and of the sink. That they are free values is the model's form of "any value" (log
entry 8). -/
def Obligations.UnreadableTellsNothing : Prop :=
  ∀ (s : State) (rp : Nat) (snk : List Bit) (snkb : List Byte) (reg : Nat), s.busy = true ∨ s.ecode ≠ .none →
    State.regRead { s with rp := rp, snk := snk, snkb := snkb } reg = s.regRead reg ∧
    State.snkbRead { s with rp := rp, snk := snk, snkb := snkb } = s.snkbRead

/-- 10_state.md R24, 60_exceptions.md R134: the fields of `STATUS`, and the number of each exception. -/
def Obligations.StatusFields : Prop :=
  ∀ s : State,
    (s.statusWord.testBit 0 = true ↔ s.phase ≠ .idle) ∧ s.statusWord.testBit 1 = s.done ∧
    (s.statusWord.testBit 2 = true ↔ s.ecode ≠ .none) ∧ s.statusWord.testBit 3 = false ∧
    s.statusWord / 16 = s.ecode.code ∧
    (s.statusWord / 16 = 0 ↔ s.ecode = .none) ∧ (s.statusWord / 16 = 1 ↔ s.ecode = .lengthOverflow) ∧
    (s.statusWord / 16 = 2 ↔ s.ecode = .runLengthOverflow) ∧ (s.statusWord / 16 = 3 ↔ s.ecode = .truncatedStream) ∧
    (s.statusWord / 16 = 4 ↔ s.ecode = .corruptStream) ∧ s.statusWord / 16 ≤ 4 ∧ s.ecode.code ≤ 4 ∧
    (s.ecode.code = 0 ↔ s.ecode = .none)

/-- 10_state.md R23, 30_encoding.md R54: the fields `CTRL` reads, and that they are the command. -/
def Obligations.CtrlFields : Prop :=
  ∀ s : State,
    s.ctrlWord.testBit 0 = false ∧ (s.ctrlWord.testBit 1 = true ↔ s.strategy = .alternating) ∧
    (s.ctrlWord.testBit 2 = true ↔ s.mode = .expand) ∧ s.ctrlWord < 8 ∧
    decode .command [s.ctrlWord.testBit 2, s.ctrlWord.testBit 1] = .ok (s.command, [])

/-- 70_reset_and_hazards.md R161, R156: the host supplies the source between passes; the model has no move for a change
during a pass (log entry 17). -/
def Obligations.SupplySource : Prop :=
  ∀ (s : State) (bytes : List Byte) (ops : List HostOp), s.inbox = .supply bytes :: ops →
    (s.busy = false → step s = .next { s with inbox := ops, srcb := bytes }) ∧
    (s.busy = true → step s = .refused .sourceChangedDuringPass)

/-- 70_reset_and_hazards.md R153, R155, 10_state.md R32: the state after reset, at any time, a pass included. The
datapath registers, which the spec leaves unspecified, are not spoken of. That a reset is a host operation of its own and
leaves the later ones is the model's choice (log entries 6, 15). -/
def Obligations.Reset : Prop :=
  AfterReset State.reset ∧
  ∀ (s : State) (ops : List HostOp), s.inbox = .reset :: ops →
    ∃ t, step s = .next t ∧ AfterReset t ∧ t.inbox = ops

/-! ## Starting a pass -/

/-- 44_pass_control.md R123: what `START` does, for each command. That `x[RS]` and `x[TL]`, which R123 does not initialise
and R32 and U9 leave at any value, are as they were is the model's choice (log entry 3, DESIGN CHOICE), and so are that
the bytes are those supplied last (log entry 18) and that the model's own `fresh` moves on (log entry 9). -/
def Obligations.StartBeginsThePass : Prop :=
  ∀ s : State, s.phase = .idle → s.srcLen ≤ Config.srcLenMax → s.srcLen ≤ 8 * s.srcb.length →
    let begun (m : Mode) (st : Strategy) (first : Phase) : State :=
      { s with
        mode := m, strategy := st, rp := 0, snk := [], snkb := [], inRun := false, fv := false, fin := false,
        rl := 0, ecode := .none, done := false, src := (unpackAll s.srcb).take s.srcLen, fresh := s.fresh + 1,
        phase := first }
    exec .encPl s = .next (begun .compress .positionLength .epCheck) ∧
    exec .encArl s = .next (begun .compress .alternating .eaScan) ∧
    exec .decPl s = .next (begun .expand .positionLength .dpHdr) ∧
    exec .decArl s = .next (begun .expand .alternating .daField)

/-- 44_pass_control.md R122, 60_exceptions.md R152: outside the model, `SRC_LEN > SRC_LEN_MAX`. -/
def Obligations.StartAboveMaxRefused : Prop :=
  ∀ s : State, s.phase = .idle → Config.srcLenMax < s.srcLen →
    exec .encPl s = .refused .srcLenAboveMax ∧ exec .encArl s = .refused .srcLenAboveMax ∧
    exec .decPl s = .refused .srcLenAboveMax ∧ exec .decArl s = .refused .srcLenAboveMax

/-- 10_state.md R25 and log entry 7 (the model's choice): a pass starts whatever bytes the host has supplied; its source
has `SRC_LEN` bits, and those the bytes reach are theirs. -/
def Obligations.StartWithAnyBytes : Prop :=
  ∀ (s : State) (i : Instr), i.place = .command → s.phase = .idle → s.srcLen ≤ Config.srcLenMax →
    ∃ t, exec i s = .next t ∧ t.src.length = s.srcLen ∧
      t.src.take (8 * s.srcb.length) = (unpackAll s.srcb).take s.srcLen

/-- The model's reading (log entry 14, DEDUCED): in a phase that belongs to one command, `exec` of another does nothing.
No host write gets here, since a write of `CTRL` during a pass is ignored before its command is looked at (statement
`CtrlWrite`). `FINISH`, which belongs to no command, is not spoken of: there `exec` of any command completes the pass
(statement `FinishCompletes`). -/
def Obligations.OtherCommandIgnored : Prop :=
  ∀ (s : State) (i j : Instr), i.place = .command → s.phase.owner = some j → i ≠ j → exec i s = .next s

/-! ## ENC.PL -/

/-- 42_position_length.md R92: `EP_CHECK`. -/
def Obligations.EncPlCheck : Prop :=
  ∀ s : State, s.phase = .epCheck →
    (65535 < s.srcLen → exec .encPl s = .next { s with ecode := .lengthOverflow, phase := .finish }) ∧
    (s.srcLen ≤ 65535 → exec .encPl s = .next { s with phase := .epHdr })

/-- 42_position_length.md R93: `EP_HDR`, and that the cursor is 0 at this point of a pass. -/
def Obligations.EncPlHeader : Prop :=
  ∀ s : State, s.phase = .epHdr → s.fin = false → s.srcLen ≤ 65535 →
    exec .encPl s =
      .next { s with snk := s.snk ++ encode (.plHdr s.srcLen), inRun := false, phase := .epScan } ∧
    (Inv s → s.rp = 0)

/-- 42_position_length.md R94, R96: `EP_SCAN` with a payload bit left. -/
def Obligations.EncPlScanBit : Prop :=
  ∀ (s : State) (b : Bit), s.phase = .epScan → s.fin = false → s.rp < s.srcLen → s.src[s.rp]? = some b →
    (b = true → s.inRun = false → s.rp ≤ 65535 →
      exec .encPl s =
        .next { s with rp := s.rp + 1, rs := BitVec.ofNat 16 s.rp, rl := 1, inRun := true } ∧
      (BitVec.ofNat 16 s.rp).toNat = s.rp) ∧
    (b = true → s.inRun = true → s.rl = 255 →
      exec .encPl s = .next { s with rp := s.rp + 1, ecode := .runLengthOverflow, phase := .finish }) ∧
    (b = true → s.inRun = true → s.rl ≠ 255 → exec .encPl s = .next { s with rp := s.rp + 1, rl := s.rl + 1 }) ∧
    (b = false → s.inRun = false → exec .encPl s = .next { s with rp := s.rp + 1 }) ∧
    (b = false → s.inRun = true → s.rl ≤ 255 →
      exec .encPl s =
        .next { s with rp := s.rp + 1, snk := s.snk ++ encode (.plRun s.rs.toNat s.rl), inRun := false })

/-- 42_position_length.md R95: `EP_SCAN` with the source exhausted. -/
def Obligations.EncPlScanEnd : Prop :=
  ∀ s : State, s.phase = .epScan → s.fin = false → s.rp = s.srcLen →
    (s.inRun = true → s.rl ≤ 255 →
      exec .encPl s =
        .next { s with snk := s.snk ++ encode (.plRun s.rs.toNat s.rl), inRun := false, phase := .finish }) ∧
    (s.inRun = false → exec .encPl s = .next { s with phase := .finish })

/-! ## DEC.PL and its records -/

/-- 42_position_length.md R99: `PL.HDR`, and that nothing is read or written before it. -/
def Obligations.PlHeaderRecord : Prop :=
  ∀ (s : State) (len : Nat), len < 65536 →
    (s.srcLen - s.rp < 16 →
      exec (.plHdr len) s = .next { s with ecode := .truncatedStream, phase := .finish }) ∧
    (16 ≤ s.srcLen - s.rp →
      ∃ t, exec (.plHdr len) s = .next t ∧ t.tl.toNat = len ∧
        t = { s with rp := s.rp + 16, tl := t.tl, phase := .dpRun }) ∧
    (Inv s → s.phase = .dpHdr → s.rp = 0 ∧ s.snk = [])

/-- 42_position_length.md R100: `PL.RUN`, with its truncations, its two checks and what it emits. -/
def Obligations.PlRunRecord : Prop :=
  ∀ (s : State) (start length : Nat), start < 65536 → length < 256 → s.fin = false →
    let rs := BitVec.ofNat 16 start
    rs.toNat = start ∧
    (s.srcLen - s.rp < 16 →
      exec (.plRun start length) s = .next { s with ecode := .truncatedStream, phase := .finish }) ∧
    (16 ≤ s.srcLen - s.rp → s.srcLen - s.rp < 24 →
      exec (.plRun start length) s =
        .next { s with rp := s.rp + 16, rs := rs, ecode := .truncatedStream, phase := .finish }) ∧
    (24 ≤ s.srcLen - s.rp → start < s.snk.length ∨ s.tl.toNat < start + length →
      exec (.plRun start length) s =
        .next { s with rp := s.rp + 24, rs := rs, rl := length, ecode := .corruptStream, phase := .finish }) ∧
    (24 ≤ s.srcLen - s.rp → s.snk.length ≤ start → start + length ≤ s.tl.toNat →
      ∃ t, exec (.plRun start length) s = .next t ∧ t.snk.length = start + length ∧
        t = { s with
          rp := s.rp + 24, rs := rs, rl := length,
          snk := s.snk ++ List.replicate (start - s.snk.length) false ++ List.replicate length true })

/-- 42_position_length.md R101, R102: the end of the record list, and the tail. -/
def Obligations.DecPlEnd : Prop :=
  ∀ s : State,
    (s.phase = .dpRun → s.rp = s.srcLen → exec .decPl s = .next { s with phase := .dpTail }) ∧
    (s.phase = .dpTail → s.fin = false → s.snk.length ≤ s.tl.toNat →
      ∃ t, exec .decPl s = .next t ∧ t.snk.length = s.tl.toNat ∧
        t = { s with snk := s.snk ++ List.replicate (s.tl.toNat - s.snk.length) false, phase := .finish })

/-! ## ENC.ARL -/

/-- 43_alternating.md R112: `EA_SCAN` with a payload bit left. -/
def Obligations.EncArlScanBit : Prop :=
  ∀ (s : State) (b : Bit), s.phase = .eaScan → s.fin = false → s.rp < s.srcLen → s.src[s.rp]? = some b →
    (b = s.fv → exec .encArl s = .next { s with rp := s.rp + 1, rl := s.rl + 1 }) ∧
    (b ≠ s.fv →
      exec .encArl s =
        .next { s with
          rp := s.rp + 1, snk := s.snk ++ (escFields s.rl).flatMap (bits 8), fv := b, rl := 1 })

/-- 43_alternating.md R113: `EA_SCAN` with the source exhausted. -/
def Obligations.EncArlScanEnd : Prop :=
  ∀ s : State, s.phase = .eaScan → s.fin = false → s.rp = s.srcLen →
    (0 < s.rl →
      exec .encArl s =
        .next { s with snk := s.snk ++ (escFields s.rl).flatMap (bits 8), phase := .finish }) ∧
    (s.rl = 0 → exec .encArl s = .next { s with phase := .finish })

/-! ## DEC.ARL and its records -/

/-- 43_alternating.md R116: `ARL.Z` and `ARL.O`. -/
def Obligations.ArlRecords : Prop :=
  ∀ (s : State) (n : Nat), s.fin = false →
    (s.srcLen - s.rp < 8 →
      exec (.arlZ n) s = .next { s with ecode := .truncatedStream, phase := .finish } ∧
      exec (.arlO n) s = .next { s with ecode := .truncatedStream, phase := .finish }) ∧
    (8 ≤ s.srcLen - s.rp →
      exec (.arlZ n) s =
        .next { s with rp := s.rp + 8, rl := n, snk := s.snk ++ List.replicate n false, fv := true } ∧
      exec (.arlO n) s =
        .next { s with rp := s.rp + 8, rl := n, snk := s.snk ++ List.replicate n true, fv := false })

/-- 43_alternating.md R117: the end of a strategy B stream, at any field boundary. -/
def Obligations.DecArlEnd : Prop :=
  ∀ s : State, s.phase = .daField → s.rp = s.srcLen → exec .decArl s = .next { s with phase := .finish }

/-! ## Completion and errors -/

/-- 44_pass_control.md R126, 40_framer.md R78: `FINISH`. Four clauses are the model's own: that the datapath registers,
which U9 leaves at any value after a pass, are as they were (log entry 3, DESIGN CHOICE); that the bytes supplied for the
pass, which R25 makes an operand of it, are kept past it (log entry 18, DESIGN CHOICE); that `exec` of a command other
than the pass's own completes it too (log entry 14, DEDUCED); and that after an error the field `SNKB` is `Pack(SNK)`, as
R126 and R33 (c) say of the reference machine, while what the host collects then is a free value (log entry 8). -/
def Obligations.FinishCompletes : Prop :=
  ∀ (s : State) (i : Instr), i.place = .command → s.phase = .finish → s.fin = false →
    exec i s = .next { s with snkb := pack s.snk, fin := true, done := true, phase := .idle }

/-- 60_exceptions.md R134 to R138, R140: each exception is raised exactly on its cause. -/
def Obligations.ErrorsRaisedExactlyOnCause : Prop :=
  ∀ (s t : State) (e : ECode), Inv s → s.busy = true → s.inbox = [] → s.ecode = .none → step s = .next t →
    e ≠ .none → (t.ecode = e ↔ RaisedFor s e)

/-- 60_exceptions.md R141: error entry, and that the pass then completes with the code in `STATUS`. That error entry is
taken in the raising step is the model's reading of R124 (log entry 13). -/
def Obligations.ErrorEntry : Prop :=
  ∀ (s t : State), Inv s → s.busy = true → s.inbox = [] → s.ecode = .none → step s = .next t → t.ecode ≠ .none →
    t.phase = .finish ∧ t.snk = s.snk ∧ t.snkb = s.snkb ∧ t.fin = false ∧ t.done = false ∧ t.command = s.command ∧
    ∃ u, step t = .next u ∧ u.ecode = t.ecode ∧ u.statusWord = 6 + 16 * t.ecode.code ∧ u.fin = true

/-- 44_pass_control.md R125: the phase transitions, complete, while the host does nothing. -/
def Obligations.PhaseTransitions : Prop :=
  ∀ (s t : State), s.inbox = [] → step s = .next t → t.phase ∈ s.phase.mayFollow

/-! ## Invariants and whole-machine rules -/

/-- 10_state.md R33 and the rules named at the fields of `Inv`. -/
def Obligations.InvAtReset : Prop := Inv State.reset

/-- 10_state.md R33 and the rules named at the fields of `Inv`: every step keeps them, the host's included. -/
def Obligations.StepKeepsInv : Prop := ∀ (s t : State), Inv s → step s = .next t → Inv t

/-- 40_framer.md R83, 44_pass_control.md R128: no operation of the core violates a precondition of the framer or stops;
what stops is what the host can bring about. -/
def Obligations.OnlyTheHostCanStop : Prop :=
  ∀ s : State, Inv s →
    (∀ r, step s ≠ .fault r) ∧ (∀ r, step s = .refused r → r.byHost = true) ∧
    (s.inbox = [] → ∃ t, step s = .next t)

/-- 10_state.md R17, R25, R26, R28, 20_memory.md R35, R45: during a pass the source, its length and the command are
fixed, `RP` never moves back, and the sink is only appended to. That `SRCB` and `SRC` are kept by the step that completes
the pass as well is the model's choice (log entry 18, DESIGN CHOICE). -/
def Obligations.ForwardOnly : Prop :=
  ∀ (s t : State), s.busy = true → s.inbox.head? ≠ some .reset → step s = .next t →
    t.src = s.src ∧ t.srcLen = s.srcLen ∧ t.srcb = s.srcb ∧ t.command = s.command ∧ s.rp ≤ t.rp ∧ s.snk <+: t.snk

/-- The frame of every instruction during a pass: the datapath registers and flags it does not name (10_state.md R14,
R19), the result bytes until `FINISH` (R26), `CTRL` (R23), and all of the source's (R25, R28) and the host's side. That a
datapath register is kept by `FINISH` as well, where U9 leaves it at any value, is the model's choice (log entry 3), and
so is that `FINISH` keeps `SRCB` and `SRC`, operands of the pass it ends (log entry 18); that a command does nothing in
another's phase is its reading (log entry 14). `fresh`, `busData`, `busBytes` and `wideWrites` are the model's own (log
entries 9, 10, 19). -/
def Obligations.InstructionFrame : Prop :=
  ∀ (i : Instr) (s t : State), s.phase ≠ .idle → exec i s = .next t →
    (t.src = s.src ∧ t.srcLen = s.srcLen ∧ t.srcb = s.srcb ∧ t.mode = s.mode ∧ t.strategy = s.strategy ∧
      t.inbox = s.inbox ∧ t.busData = s.busData ∧ t.busBytes = s.busBytes ∧ t.fresh = s.fresh ∧
      t.wideWrites = s.wideWrites) ∧
    (s.phase ≠ .finish ∨ i.place ≠ .command → t.snkb = s.snkb ∧ t.fin = s.fin ∧ t.done = s.done) ∧
    match i with
    | .encPl => t.tl = s.tl ∧ t.fv = s.fv
    | .encArl => t.rs = s.rs ∧ t.tl = s.tl ∧ t.inRun = s.inRun
    | .decPl => t.inRun = s.inRun ∧ t.fv = s.fv
    | .decArl => t.rs = s.rs ∧ t.tl = s.tl ∧ t.inRun = s.inRun
    | .plHdr _ => t.rs = s.rs ∧ t.rl = s.rl ∧ t.inRun = s.inRun ∧ t.fv = s.fv ∧ t.snk = s.snk
    | .plRun _ _ => t.tl = s.tl ∧ t.inRun = s.inRun ∧ t.fv = s.fv
    | .arlZ _ => t.rs = s.rs ∧ t.tl = s.tl ∧ t.inRun = s.inRun
    | .arlO _ => t.rs = s.rs ∧ t.tl = s.tl ∧ t.inRun = s.inRun

/-- 44_pass_control.md R128: every pass terminates; from any state a pass can be in, within the bits that are left and
four more steps. -/
def Obligations.EveryPassTerminates : Prop :=
  ∀ s : State, Inv s → s.busy = true → s.inbox = [] →
    ∃ k t, k ≤ s.srcLen - s.rp + 4 ∧ run k s = .next t ∧ t.phase = .idle ∧ t.done = true

/-- 44_pass_control.md R132: the result of a pass depends on nothing but its command and its source. Nothing is said of
the datapath registers once the pass is over (93 U9), nor of the streams once it has failed (93 U1). -/
def Obligations.PassesAreIndependent : Prop :=
  ∀ (i : Instr) (s₁ s₂ t₁ : State) (k : Nat), i.place = .command → PassReady s₁ → PassReady s₂ →
    s₁.srcLen = s₂.srcLen → s₁.payload = s₂.payload → andThen (exec i s₁) (run k) = .next t₁ →
    ∃ t₂, andThen (exec i s₂) (run k) = .next t₂ ∧ SamePass t₁ t₂

/-! ## What a pass computes -/

/-- 42_position_length.md R91, R105, 44_pass_control.md R127. -/
def Obligations.EncPlPass : Prop := PassComputes .encPl encPL

/-- 42_position_length.md R98, R105, 44_pass_control.md R127. -/
def Obligations.DecPlPass : Prop := PassComputes .decPl decPL

/-- 43_alternating.md R107, R120, 44_pass_control.md R127. -/
def Obligations.EncArlPass : Prop := PassComputes .encArl fun b => .ok (encARL b)

/-- 43_alternating.md R115, R120, 44_pass_control.md R127. -/
def Obligations.DecArlPass : Prop := PassComputes .decArl decARL

/-- 42_position_length.md R106: the round trip of strategy A on its whole domain (no run of `1`s over 255 long is: no 256
`1`s in a row), and that outside it `EncPL` is an error, the one R139 names. -/
def Obligations.RoundTripA : Prop :=
  ∀ b : List Bit,
    (b.length ≤ 65535 → ¬ List.replicate 256 true <:+: b → ∃ t, encPL b = .ok t ∧ decPL t = .ok b) ∧
    (65535 < b.length → encPL b = .error .lengthOverflow) ∧
    (b.length ≤ 65535 → List.replicate 256 true <:+: b → encPL b = .error .runLengthOverflow)

/-- 43_alternating.md R121: the round trip of strategy B. -/
def Obligations.RoundTripB : Prop := ∀ b : List Bit, decARL (encARL b) = .ok b

/-- 70_reset_and_hazards.md R158 under strategy A: the decode pass over the bytes of the encode pass gives the payload
back. -/
def Obligations.ExpandUndoesCompressA : Prop :=
  ∀ s : State, PassReady s → s.srcLen ≤ 65535 → ¬ List.replicate 256 true <:+: s.payload →
    ∃ k t, andThen (exec .encPl s) (run k) = .next t ∧ t.statusWord = 2 ∧
      ∀ u : State, PassReady u → u.srcb = t.snkbRead → u.srcLen = 8 * u.srcb.length →
        ∃ k' v, andThen (exec .decPl u) (run k') = .next v ∧ v.statusWord = 2 ∧ v.snk = s.payload ∧
          v.snkLenRead = s.srcLen

/-- 70_reset_and_hazards.md R158 under strategy B. -/
def Obligations.ExpandUndoesCompressB : Prop :=
  ∀ s : State, PassReady s →
    ∃ k t, andThen (exec .encArl s) (run k) = .next t ∧ t.statusWord = 2 ∧
      ∀ u : State, PassReady u → u.srcb = t.snkbRead → u.srcLen = 8 * u.srcb.length →
        ∃ k' v, andThen (exec .decArl u) (run k') = .next v ∧ v.statusWord = 2 ∧ v.snk = s.payload ∧
          v.snkLenRead = s.srcLen

/-! ## The functions -/

/-- 42_position_length.md R105: `runs1(b)` is the list of the maximal runs of `1`s, in increasing start order. -/
def Obligations.RunsAreTheMaximalRuns : Prop :=
  ∀ b : List Bit, (∀ s n, (s, n) ∈ runs1 b ↔ MaximalRun b s n) ∧ (runs1 b).Pairwise fun x y => x.1 < y.1

/-- 43_alternating.md R120: `altruns(b)` partitions `b` into alternating runs, the first of `0`s and possibly empty. -/
def Obligations.AltRunsPartition : Prop :=
  ∀ b : List Bit, alternate false (altRuns b) = b ∧ (altRuns b).sum = b.length ∧
    (∀ r ∈ (altRuns b).tail, 1 ≤ r) ∧ (altRuns b = [] ↔ b = [])

/-- 41_escape_chain.md R86: the closed form of the escape chain. -/
def Obligations.EscClosedForm : Prop :=
  escFields 0 = [0] ∧
  ∀ n, 1 ≤ n →
    let q := (n - 1) / 255
    let r := n - 255 * q
    1 ≤ r ∧ r ≤ 255 ∧ escFields n = (List.replicate q [255, 0]).flatten ++ [r] ∧
      (escFields n).length = 2 * q + 1 ∧ ((escFields n).flatMap (bits 8)).length = 8 * (2 * q + 1)

/-- 41_escape_chain.md R87: the properties of the escape chain. -/
def Obligations.EscProperties : Prop :=
  (∀ n, (escFields n).length % 2 = 1 ∧ (∀ v ∈ escFields n, v ≤ 255) ∧ (evenOffsets (escFields n)).sum = n ∧
    (∀ k, k < (escFields n).length → k % 2 = 1 → (escFields n)[k]? = some 0) ∧
    (1 ≤ n → (∃ v, (escFields n).getLast? = some v ∧ 1 ≤ v) ∧
      ∀ k, k + 1 < (escFields n).length → k % 2 = 0 → (escFields n)[k]? = some 255) ∧
    (escFields n).sum = n) ∧
  ∀ m n, escFields m = escFields n → m = n

/-- 41_escape_chain.md R88: the decoder meets an escape chain as `n` bits of its value and none of the other. -/
def Obligations.EscTransparent : Prop :=
  ∀ (n turns : Nat) (f : Bit) (rest out : List Bit),
    decARLFrom ((escFields n).length + turns) f ((escFields n).flatMap (bits 8) ++ rest) out =
      decARLFrom turns (!f) rest (out ++ List.replicate n f)

/-- 40_framer.md R82: the laws of `Pack` and `Unpack`. -/
def Obligations.PackUnpack : Prop :=
  (∀ s : List Bit, unpack (pack s) s.length = s ∧
    unpackAll (pack s) = s ++ List.replicate ((8 - s.length % 8) % 8) false ∧
    (pack s).length = (s.length + 7) / 8) ∧
  ∀ bytes : List Byte, pack (unpackAll bytes) = bytes

/-- 40_framer.md R73 to R78, 93 U4, U5, U6: the operations of the framer inside their interface, and the refusals outside
it. -/
def Obligations.Framer : Prop :=
  ∀ s : State,
    (s.isExh = true ↔ s.rp = s.srcLen) ∧
    (s.rp = s.srcLen → rdbit s = none) ∧
    (∀ b, s.rp ≠ s.srcLen → s.src[s.rp]? = some b → rdbit s = some (b, { s with rp := s.rp + 1 })) ∧
    (∀ w, 1 ≤ w → w ≤ 32 →
      (s.srcLen - s.rp < w → rduint w s = .endOfInput) ∧
      (w ≤ s.srcLen - s.rp → rduint w s = .ok (val ((s.src.drop s.rp).take w)) { s with rp := s.rp + w })) ∧
    (s.fin = false →
      (∀ b, wrbit b s = .next { s with snk := s.snk ++ [b] }) ∧
      (∀ v w, 1 ≤ w → w ≤ 32 → v < 2 ^ w → wruint v w s = .next { s with snk := s.snk ++ bits w v }) ∧
      (∀ v w, 1 ≤ w → w ≤ 32 → 2 ^ w ≤ v → wruint v w s = .refused .valueTooWide) ∧
      finalize s = .next { s with snkb := pack s.snk, fin := true }) ∧
    (s.fin = true →
      (∀ b, wrbit b s = .refused .writeAfterFinalize) ∧
      (∀ v w, 1 ≤ w → w ≤ 32 → wruint v w s = .refused .writeAfterFinalize) ∧
      finalize s = .refused .finalizeTwice) ∧
    (∀ v w, w < 1 ∨ 32 < w → rduint w s = .badWidth ∧ wruint v w s = .refused .badFieldWidth)

/-- 42_position_length.md R102: a successful `DecPL` has exactly the stated length. -/
def Obligations.DecPlLength : Prop :=
  ∀ s out : List Bit, decPL s = .ok out → 16 ≤ s.length ∧ out.length = val (s.take 16)

/-- 43_alternating.md R118, R119: `DecARL` succeeds exactly on whole numbers of fields, and fails only by
`TruncatedStream`. -/
def Obligations.DecArlFailsOnlyMidField : Prop :=
  ∀ s : List Bit,
    (s.length % 8 = 0 → ∃ out, decARL s = .ok out) ∧ (s.length % 8 ≠ 0 → decARL s = .error .truncatedStream)

/-- 20_memory.md R40, R41, 10_state.md R18: the sink size bounds, that the sink of a source within `SRC_LEN_MAX` fits the
`LEN_W + 5` bits of `SNK_LEN`, and that an encoded stream is whole bytes. -/
def Obligations.SinkBounds : Prop :=
  (∀ b t, encPL b = .ok t →
    t.length = 16 + 24 * (runs1 b).length ∧ t.length ≤ 16 + 24 * ((b.length + 1) / 2) ∧ t.length ≤ 786448) ∧
  (∀ s out, decPL s = .ok out → out.length ≤ 65535) ∧
  (encARL [] = [] ∧ ∀ b, (encARL b).length % 8 = 0 ∧ (encARL b).length ≤ 8 * (b.length + 1)) ∧
  (∀ s out, decARL s = .ok out → out.length ≤ 255 * (s.length / 8)) ∧
  ∀ b : List Bit, b.length ≤ Config.srcLenMax →
    let bound := max 786448 (32 * b.length)
    (∀ t, encPL b = .ok t → t.length ≤ bound) ∧ (∀ t, decPL b = .ok t → t.length ≤ bound) ∧
    (encARL b).length ≤ bound ∧ (∀ t, decARL b = .ok t → t.length ≤ bound) ∧ bound < 2 ^ Config.snkLenW
end

