-- ==== Sys2Proof/Laws/Bits.lean ====
section
/-! SUPPORT. The small lemmas of `bits`, `val` and `unpack`: lengths, ranges, and that `val` and `bits` undo each
other (00_scope.md R9). -/

namespace Sys2Proof

@[simp] theorem bits_zero_width (v : Nat) : bits 0 v = [] := rfl

@[simp] theorem bits_succ_width (w v : Nat) : bits (w + 1) v = v.testBit w :: bits w v := rfl

@[simp] theorem length_bits (w v : Nat) : (bits w v).length = w := by
  induction w with
  | zero => rfl
  | succ w ih => simp [ih]

@[simp] theorem val_nil : val [] = 0 := rfl

/-- The second defining equation of `val` (R9). -/
theorem val_append_bit (s : List Bit) (b : Bit) : val (s ++ [b]) = 2 * val s + b.toNat := by
  simp [val, List.foldl_append]

/-- `val` of two sequences one after the other. -/
theorem val_append (s t : List Bit) : val (s ++ t) = val s * 2 ^ t.length + val t := by
  induction t using List.reverseRecOn with
  | nil => simp
  | append_singleton t b ih =>
    rw [← List.append_assoc, val_append_bit, ih, val_append_bit, List.length_append, List.length_singleton, pow_succ]
    ring

theorem val_cons (b : Bit) (s : List Bit) : val (b :: s) = b.toNat * 2 ^ s.length + val s := by
  have h := val_append [b] s
  simpa [val] using h

/-- A sequence of `w` bits spells a number of `u<w>`. -/
theorem val_lt (s : List Bit) : val s < 2 ^ s.length := by
  induction s with
  | nil => simp
  | cons b s ih =>
    rw [val_cons, List.length_cons, pow_succ]
    cases b <;> simp <;> omega

theorem val_bits_mod (w v : Nat) : val (bits w v) = v % 2 ^ w := by
  induction w with
  | zero => simp [Nat.mod_one]
  | succ w ih =>
    rw [bits_succ_width, val_cons, ih, length_bits, Nat.mod_pow_succ, Nat.testBit_eq_decide_div_mod_eq]
    rcases Nat.mod_two_eq_zero_or_one (v / 2 ^ w) with h | h <;> simp [h, Nat.add_comm]

/-- `val(bits_W(v)) = v` (R9). -/
theorem val_bits (w v : Nat) (h : v < 2 ^ w) : val (bits w v) = v := by
  rw [val_bits_mod, Nat.mod_eq_of_lt h]

/-- Bits above bit `w` do not change bit `w`. -/
theorem testBit_add_high (w v k : Nat) : (k * 2 ^ (w + 1) + v).testBit w = v.testBit w := by
  rw [Nat.testBit_eq_decide_div_mod_eq, Nat.testBit_eq_decide_div_mod_eq]
  rw [show k * 2 ^ (w + 1) + v = v + 2 ^ w * (2 * k) by rw [pow_succ]; ring,
    Nat.add_mul_div_left _ _ (Nat.two_pow_pos w), Nat.add_mul_mod_self_left]

/-- The bits above the width do not count. -/
theorem bits_add_high (w v k : Nat) : bits w (k * 2 ^ w + v) = bits w v := by
  induction w generalizing k with
  | zero => rfl
  | succ w ih =>
    rw [bits_succ_width, bits_succ_width, testBit_add_high,
      show k * 2 ^ (w + 1) + v = k * 2 * 2 ^ w + v by rw [pow_succ]; ring, ih]

/-- `bits_W(val(s)) = s` when `len(s) = W` (R9). -/
theorem bits_val (s : List Bit) : bits s.length (val s) = s := by
  induction s with
  | nil => rfl
  | cons b s ih =>
    rw [List.length_cons, bits_succ_width, val_cons, bits_add_high, ih]
    congr 1
    have h := val_lt s
    rw [Nat.testBit_eq_decide_div_mod_eq, Nat.add_comm, Nat.add_mul_div_right _ _ (Nat.two_pow_pos _),
      Nat.div_eq_of_lt h]
    cases b <;> rfl

@[simp] theorem length_padded (s : List Bit) : (padded s).length = s.length + padCount s.length := by
  simp [padded]

@[simp] theorem unpackAll_nil : unpackAll [] = [] := rfl

@[simp] theorem unpackAll_cons (b : Byte) (bytes : List Byte) :
    unpackAll (b :: bytes) = bits 8 b.toNat ++ unpackAll bytes := by
  simp [unpackAll]

@[simp] theorem length_unpackAll (bytes : List Byte) : (unpackAll bytes).length = 8 * bytes.length := by
  induction bytes with
  | nil => rfl
  | cons b bytes ih => rw [unpackAll_cons, List.length_append, length_bits, ih, List.length_cons]; ring

@[simp] theorem length_unpack (bytes : List Byte) (n : Nat) : (unpack bytes n).length = min n (8 * bytes.length) := by
  simp [unpack]

end Sys2Proof
end

