-- ==== Sys2Proof/Laws/State.lean ====
section
/-! SUPPORT. One lemma per field per update of the state: what the updated field holds, and that every other field is
what it was. -/

namespace Sys2Proof.Machine.State

variable (s : State)

/-! ## `enterRun` -/

@[simp] theorem enterRun_rs (start : Nat) : (s.enterRun start).rs = BitVec.ofNat 16 start := rfl
@[simp] theorem enterRun_rl (start : Nat) : (s.enterRun start).rl = 0 := rfl
@[simp] theorem enterRun_tl (start : Nat) : (s.enterRun start).tl = s.tl := rfl
@[simp] theorem enterRun_rp (start : Nat) : (s.enterRun start).rp = s.rp := rfl
@[simp] theorem enterRun_inRun (start : Nat) : (s.enterRun start).inRun = true := rfl
@[simp] theorem enterRun_fv (start : Nat) : (s.enterRun start).fv = s.fv := rfl
@[simp] theorem enterRun_fin (start : Nat) : (s.enterRun start).fin = s.fin := rfl
@[simp] theorem enterRun_phase (start : Nat) : (s.enterRun start).phase = s.phase := rfl
@[simp] theorem enterRun_strategy (start : Nat) : (s.enterRun start).strategy = s.strategy := rfl
@[simp] theorem enterRun_mode (start : Nat) : (s.enterRun start).mode = s.mode := rfl
@[simp] theorem enterRun_done (start : Nat) : (s.enterRun start).done = s.done := rfl
@[simp] theorem enterRun_ecode (start : Nat) : (s.enterRun start).ecode = s.ecode := rfl
@[simp] theorem enterRun_srcLen (start : Nat) : (s.enterRun start).srcLen = s.srcLen := rfl
@[simp] theorem enterRun_src (start : Nat) : (s.enterRun start).src = s.src := rfl
@[simp] theorem enterRun_srcb (start : Nat) : (s.enterRun start).srcb = s.srcb := rfl
@[simp] theorem enterRun_snk (start : Nat) : (s.enterRun start).snk = s.snk := rfl
@[simp] theorem enterRun_snkb (start : Nat) : (s.enterRun start).snkb = s.snkb := rfl
@[simp] theorem enterRun_inbox (start : Nat) : (s.enterRun start).inbox = s.inbox := rfl
@[simp] theorem enterRun_busData (start : Nat) : (s.enterRun start).busData = s.busData := rfl
@[simp] theorem enterRun_busBytes (start : Nat) : (s.enterRun start).busBytes = s.busBytes := rfl
@[simp] theorem enterRun_fresh (start : Nat) : (s.enterRun start).fresh = s.fresh := rfl
@[simp] theorem enterRun_wideWrites (start : Nat) : (s.enterRun start).wideWrites = s.wideWrites := rfl

/-! ## `leaveRun` -/

@[simp] theorem leaveRun_rs : (s.leaveRun).rs = s.rs := rfl
@[simp] theorem leaveRun_rl : (s.leaveRun).rl = s.rl := rfl
@[simp] theorem leaveRun_tl : (s.leaveRun).tl = s.tl := rfl
@[simp] theorem leaveRun_rp : (s.leaveRun).rp = s.rp := rfl
@[simp] theorem leaveRun_inRun : (s.leaveRun).inRun = false := rfl
@[simp] theorem leaveRun_fv : (s.leaveRun).fv = s.fv := rfl
@[simp] theorem leaveRun_fin : (s.leaveRun).fin = s.fin := rfl
@[simp] theorem leaveRun_phase : (s.leaveRun).phase = s.phase := rfl
@[simp] theorem leaveRun_strategy : (s.leaveRun).strategy = s.strategy := rfl
@[simp] theorem leaveRun_mode : (s.leaveRun).mode = s.mode := rfl
@[simp] theorem leaveRun_done : (s.leaveRun).done = s.done := rfl
@[simp] theorem leaveRun_ecode : (s.leaveRun).ecode = s.ecode := rfl
@[simp] theorem leaveRun_srcLen : (s.leaveRun).srcLen = s.srcLen := rfl
@[simp] theorem leaveRun_src : (s.leaveRun).src = s.src := rfl
@[simp] theorem leaveRun_srcb : (s.leaveRun).srcb = s.srcb := rfl
@[simp] theorem leaveRun_snk : (s.leaveRun).snk = s.snk := rfl
@[simp] theorem leaveRun_snkb : (s.leaveRun).snkb = s.snkb := rfl
@[simp] theorem leaveRun_inbox : (s.leaveRun).inbox = s.inbox := rfl
@[simp] theorem leaveRun_busData : (s.leaveRun).busData = s.busData := rfl
@[simp] theorem leaveRun_busBytes : (s.leaveRun).busBytes = s.busBytes := rfl
@[simp] theorem leaveRun_fresh : (s.leaveRun).fresh = s.fresh := rfl
@[simp] theorem leaveRun_wideWrites : (s.leaveRun).wideWrites = s.wideWrites := rfl

/-! ## `setFv` -/

@[simp] theorem setFv_rs (b : Bit) : (s.setFv b).rs = s.rs := rfl
@[simp] theorem setFv_rl (b : Bit) : (s.setFv b).rl = s.rl := rfl
@[simp] theorem setFv_tl (b : Bit) : (s.setFv b).tl = s.tl := rfl
@[simp] theorem setFv_rp (b : Bit) : (s.setFv b).rp = s.rp := rfl
@[simp] theorem setFv_inRun (b : Bit) : (s.setFv b).inRun = s.inRun := rfl
@[simp] theorem setFv_fv (b : Bit) : (s.setFv b).fv = b := rfl
@[simp] theorem setFv_fin (b : Bit) : (s.setFv b).fin = s.fin := rfl
@[simp] theorem setFv_phase (b : Bit) : (s.setFv b).phase = s.phase := rfl
@[simp] theorem setFv_strategy (b : Bit) : (s.setFv b).strategy = s.strategy := rfl
@[simp] theorem setFv_mode (b : Bit) : (s.setFv b).mode = s.mode := rfl
@[simp] theorem setFv_done (b : Bit) : (s.setFv b).done = s.done := rfl
@[simp] theorem setFv_ecode (b : Bit) : (s.setFv b).ecode = s.ecode := rfl
@[simp] theorem setFv_srcLen (b : Bit) : (s.setFv b).srcLen = s.srcLen := rfl
@[simp] theorem setFv_src (b : Bit) : (s.setFv b).src = s.src := rfl
@[simp] theorem setFv_srcb (b : Bit) : (s.setFv b).srcb = s.srcb := rfl
@[simp] theorem setFv_snk (b : Bit) : (s.setFv b).snk = s.snk := rfl
@[simp] theorem setFv_snkb (b : Bit) : (s.setFv b).snkb = s.snkb := rfl
@[simp] theorem setFv_inbox (b : Bit) : (s.setFv b).inbox = s.inbox := rfl
@[simp] theorem setFv_busData (b : Bit) : (s.setFv b).busData = s.busData := rfl
@[simp] theorem setFv_busBytes (b : Bit) : (s.setFv b).busBytes = s.busBytes := rfl
@[simp] theorem setFv_fresh (b : Bit) : (s.setFv b).fresh = s.fresh := rfl
@[simp] theorem setFv_wideWrites (b : Bit) : (s.setFv b).wideWrites = s.wideWrites := rfl

/-! ## `advance` -/

@[simp] theorem advance_rs (n : Nat) : (s.advance n).rs = s.rs := rfl
@[simp] theorem advance_rl (n : Nat) : (s.advance n).rl = s.rl := rfl
@[simp] theorem advance_tl (n : Nat) : (s.advance n).tl = s.tl := rfl
@[simp] theorem advance_rp (n : Nat) : (s.advance n).rp = s.rp + n := rfl
@[simp] theorem advance_inRun (n : Nat) : (s.advance n).inRun = s.inRun := rfl
@[simp] theorem advance_fv (n : Nat) : (s.advance n).fv = s.fv := rfl
@[simp] theorem advance_fin (n : Nat) : (s.advance n).fin = s.fin := rfl
@[simp] theorem advance_phase (n : Nat) : (s.advance n).phase = s.phase := rfl
@[simp] theorem advance_strategy (n : Nat) : (s.advance n).strategy = s.strategy := rfl
@[simp] theorem advance_mode (n : Nat) : (s.advance n).mode = s.mode := rfl
@[simp] theorem advance_done (n : Nat) : (s.advance n).done = s.done := rfl
@[simp] theorem advance_ecode (n : Nat) : (s.advance n).ecode = s.ecode := rfl
@[simp] theorem advance_srcLen (n : Nat) : (s.advance n).srcLen = s.srcLen := rfl
@[simp] theorem advance_src (n : Nat) : (s.advance n).src = s.src := rfl
@[simp] theorem advance_srcb (n : Nat) : (s.advance n).srcb = s.srcb := rfl
@[simp] theorem advance_snk (n : Nat) : (s.advance n).snk = s.snk := rfl
@[simp] theorem advance_snkb (n : Nat) : (s.advance n).snkb = s.snkb := rfl
@[simp] theorem advance_inbox (n : Nat) : (s.advance n).inbox = s.inbox := rfl
@[simp] theorem advance_busData (n : Nat) : (s.advance n).busData = s.busData := rfl
@[simp] theorem advance_busBytes (n : Nat) : (s.advance n).busBytes = s.busBytes := rfl
@[simp] theorem advance_fresh (n : Nat) : (s.advance n).fresh = s.fresh := rfl
@[simp] theorem advance_wideWrites (n : Nat) : (s.advance n).wideWrites = s.wideWrites := rfl

/-! ## `append` -/

@[simp] theorem append_rs (bs : List Bit) : (s.append bs).rs = s.rs := rfl
@[simp] theorem append_rl (bs : List Bit) : (s.append bs).rl = s.rl := rfl
@[simp] theorem append_tl (bs : List Bit) : (s.append bs).tl = s.tl := rfl
@[simp] theorem append_rp (bs : List Bit) : (s.append bs).rp = s.rp := rfl
@[simp] theorem append_inRun (bs : List Bit) : (s.append bs).inRun = s.inRun := rfl
@[simp] theorem append_fv (bs : List Bit) : (s.append bs).fv = s.fv := rfl
@[simp] theorem append_fin (bs : List Bit) : (s.append bs).fin = s.fin := rfl
@[simp] theorem append_phase (bs : List Bit) : (s.append bs).phase = s.phase := rfl
@[simp] theorem append_strategy (bs : List Bit) : (s.append bs).strategy = s.strategy := rfl
@[simp] theorem append_mode (bs : List Bit) : (s.append bs).mode = s.mode := rfl
@[simp] theorem append_done (bs : List Bit) : (s.append bs).done = s.done := rfl
@[simp] theorem append_ecode (bs : List Bit) : (s.append bs).ecode = s.ecode := rfl
@[simp] theorem append_srcLen (bs : List Bit) : (s.append bs).srcLen = s.srcLen := rfl
@[simp] theorem append_src (bs : List Bit) : (s.append bs).src = s.src := rfl
@[simp] theorem append_srcb (bs : List Bit) : (s.append bs).srcb = s.srcb := rfl
@[simp] theorem append_snk (bs : List Bit) : (s.append bs).snk = s.snk ++ bs := rfl
@[simp] theorem append_snkb (bs : List Bit) : (s.append bs).snkb = s.snkb := rfl
@[simp] theorem append_inbox (bs : List Bit) : (s.append bs).inbox = s.inbox := rfl
@[simp] theorem append_busData (bs : List Bit) : (s.append bs).busData = s.busData := rfl
@[simp] theorem append_busBytes (bs : List Bit) : (s.append bs).busBytes = s.busBytes := rfl
@[simp] theorem append_fresh (bs : List Bit) : (s.append bs).fresh = s.fresh := rfl
@[simp] theorem append_wideWrites (bs : List Bit) : (s.append bs).wideWrites = s.wideWrites := rfl

/-! ## `goto` -/

@[simp] theorem goto_rs (p : Phase) : (s.goto p).rs = s.rs := rfl
@[simp] theorem goto_rl (p : Phase) : (s.goto p).rl = s.rl := rfl
@[simp] theorem goto_tl (p : Phase) : (s.goto p).tl = s.tl := rfl
@[simp] theorem goto_rp (p : Phase) : (s.goto p).rp = s.rp := rfl
@[simp] theorem goto_inRun (p : Phase) : (s.goto p).inRun = s.inRun := rfl
@[simp] theorem goto_fv (p : Phase) : (s.goto p).fv = s.fv := rfl
@[simp] theorem goto_fin (p : Phase) : (s.goto p).fin = s.fin := rfl
@[simp] theorem goto_phase (p : Phase) : (s.goto p).phase = p := rfl
@[simp] theorem goto_strategy (p : Phase) : (s.goto p).strategy = s.strategy := rfl
@[simp] theorem goto_mode (p : Phase) : (s.goto p).mode = s.mode := rfl
@[simp] theorem goto_done (p : Phase) : (s.goto p).done = s.done := rfl
@[simp] theorem goto_ecode (p : Phase) : (s.goto p).ecode = s.ecode := rfl
@[simp] theorem goto_srcLen (p : Phase) : (s.goto p).srcLen = s.srcLen := rfl
@[simp] theorem goto_src (p : Phase) : (s.goto p).src = s.src := rfl
@[simp] theorem goto_srcb (p : Phase) : (s.goto p).srcb = s.srcb := rfl
@[simp] theorem goto_snk (p : Phase) : (s.goto p).snk = s.snk := rfl
@[simp] theorem goto_snkb (p : Phase) : (s.goto p).snkb = s.snkb := rfl
@[simp] theorem goto_inbox (p : Phase) : (s.goto p).inbox = s.inbox := rfl
@[simp] theorem goto_busData (p : Phase) : (s.goto p).busData = s.busData := rfl
@[simp] theorem goto_busBytes (p : Phase) : (s.goto p).busBytes = s.busBytes := rfl
@[simp] theorem goto_fresh (p : Phase) : (s.goto p).fresh = s.fresh := rfl
@[simp] theorem goto_wideWrites (p : Phase) : (s.goto p).wideWrites = s.wideWrites := rfl

/-! ## `raise` -/

@[simp] theorem raise_rs (e : ECode) : (s.raise e).rs = s.rs := rfl
@[simp] theorem raise_rl (e : ECode) : (s.raise e).rl = s.rl := rfl
@[simp] theorem raise_tl (e : ECode) : (s.raise e).tl = s.tl := rfl
@[simp] theorem raise_rp (e : ECode) : (s.raise e).rp = s.rp := rfl
@[simp] theorem raise_inRun (e : ECode) : (s.raise e).inRun = s.inRun := rfl
@[simp] theorem raise_fv (e : ECode) : (s.raise e).fv = s.fv := rfl
@[simp] theorem raise_fin (e : ECode) : (s.raise e).fin = s.fin := rfl
@[simp] theorem raise_phase (e : ECode) : (s.raise e).phase = .finish := rfl
@[simp] theorem raise_strategy (e : ECode) : (s.raise e).strategy = s.strategy := rfl
@[simp] theorem raise_mode (e : ECode) : (s.raise e).mode = s.mode := rfl
@[simp] theorem raise_done (e : ECode) : (s.raise e).done = s.done := rfl
@[simp] theorem raise_ecode (e : ECode) : (s.raise e).ecode = e := rfl
@[simp] theorem raise_srcLen (e : ECode) : (s.raise e).srcLen = s.srcLen := rfl
@[simp] theorem raise_src (e : ECode) : (s.raise e).src = s.src := rfl
@[simp] theorem raise_srcb (e : ECode) : (s.raise e).srcb = s.srcb := rfl
@[simp] theorem raise_snk (e : ECode) : (s.raise e).snk = s.snk := rfl
@[simp] theorem raise_snkb (e : ECode) : (s.raise e).snkb = s.snkb := rfl
@[simp] theorem raise_inbox (e : ECode) : (s.raise e).inbox = s.inbox := rfl
@[simp] theorem raise_busData (e : ECode) : (s.raise e).busData = s.busData := rfl
@[simp] theorem raise_busBytes (e : ECode) : (s.raise e).busBytes = s.busBytes := rfl
@[simp] theorem raise_fresh (e : ECode) : (s.raise e).fresh = s.fresh := rfl
@[simp] theorem raise_wideWrites (e : ECode) : (s.raise e).wideWrites = s.wideWrites := rfl

/-! ## `seal` -/

@[simp] theorem seal_rs : (s.seal).rs = s.rs := rfl
@[simp] theorem seal_rl : (s.seal).rl = s.rl := rfl
@[simp] theorem seal_tl : (s.seal).tl = s.tl := rfl
@[simp] theorem seal_rp : (s.seal).rp = s.rp := rfl
@[simp] theorem seal_inRun : (s.seal).inRun = s.inRun := rfl
@[simp] theorem seal_fv : (s.seal).fv = s.fv := rfl
@[simp] theorem seal_fin : (s.seal).fin = true := rfl
@[simp] theorem seal_phase : (s.seal).phase = s.phase := rfl
@[simp] theorem seal_strategy : (s.seal).strategy = s.strategy := rfl
@[simp] theorem seal_mode : (s.seal).mode = s.mode := rfl
@[simp] theorem seal_done : (s.seal).done = s.done := rfl
@[simp] theorem seal_ecode : (s.seal).ecode = s.ecode := rfl
@[simp] theorem seal_srcLen : (s.seal).srcLen = s.srcLen := rfl
@[simp] theorem seal_src : (s.seal).src = s.src := rfl
@[simp] theorem seal_srcb : (s.seal).srcb = s.srcb := rfl
@[simp] theorem seal_snk : (s.seal).snk = s.snk := rfl
@[simp] theorem seal_snkb : (s.seal).snkb = pack s.snk := rfl
@[simp] theorem seal_inbox : (s.seal).inbox = s.inbox := rfl
@[simp] theorem seal_busData : (s.seal).busData = s.busData := rfl
@[simp] theorem seal_busBytes : (s.seal).busBytes = s.busBytes := rfl
@[simp] theorem seal_fresh : (s.seal).fresh = s.fresh := rfl
@[simp] theorem seal_wideWrites : (s.seal).wideWrites = s.wideWrites := rfl

/-! ## `begin` -/

@[simp] theorem begin_rs (m : Mode) (st : Strategy) (p : Phase) : (s.begin m st p).rs = s.rs := rfl
@[simp] theorem begin_rl (m : Mode) (st : Strategy) (p : Phase) : (s.begin m st p).rl = 0 := rfl
@[simp] theorem begin_tl (m : Mode) (st : Strategy) (p : Phase) : (s.begin m st p).tl = s.tl := rfl
@[simp] theorem begin_rp (m : Mode) (st : Strategy) (p : Phase) : (s.begin m st p).rp = 0 := rfl
@[simp] theorem begin_inRun (m : Mode) (st : Strategy) (p : Phase) : (s.begin m st p).inRun = false := rfl
@[simp] theorem begin_fv (m : Mode) (st : Strategy) (p : Phase) : (s.begin m st p).fv = Config.firstRun := rfl
@[simp] theorem begin_fin (m : Mode) (st : Strategy) (p : Phase) : (s.begin m st p).fin = false := rfl
@[simp] theorem begin_phase (m : Mode) (st : Strategy) (p : Phase) : (s.begin m st p).phase = p := rfl
@[simp] theorem begin_strategy (m : Mode) (st : Strategy) (p : Phase) : (s.begin m st p).strategy = st := rfl
@[simp] theorem begin_mode (m : Mode) (st : Strategy) (p : Phase) : (s.begin m st p).mode = m := rfl
@[simp] theorem begin_done (m : Mode) (st : Strategy) (p : Phase) : (s.begin m st p).done = false := rfl
@[simp] theorem begin_ecode (m : Mode) (st : Strategy) (p : Phase) : (s.begin m st p).ecode = .none := rfl
@[simp] theorem begin_srcLen (m : Mode) (st : Strategy) (p : Phase) : (s.begin m st p).srcLen = s.srcLen := rfl
@[simp] theorem begin_src (m : Mode) (st : Strategy) (p : Phase) : (s.begin m st p).src = s.boundSource := rfl
@[simp] theorem begin_srcb (m : Mode) (st : Strategy) (p : Phase) : (s.begin m st p).srcb = s.srcb := rfl
@[simp] theorem begin_snk (m : Mode) (st : Strategy) (p : Phase) : (s.begin m st p).snk = [] := rfl
@[simp] theorem begin_snkb (m : Mode) (st : Strategy) (p : Phase) : (s.begin m st p).snkb = [] := rfl
@[simp] theorem begin_inbox (m : Mode) (st : Strategy) (p : Phase) : (s.begin m st p).inbox = s.inbox := rfl
@[simp] theorem begin_busData (m : Mode) (st : Strategy) (p : Phase) : (s.begin m st p).busData = s.busData := rfl
@[simp] theorem begin_busBytes (m : Mode) (st : Strategy) (p : Phase) : (s.begin m st p).busBytes = s.busBytes := rfl
@[simp] theorem begin_fresh (m : Mode) (st : Strategy) (p : Phase) : (s.begin m st p).fresh = s.fresh + 1 := rfl
@[simp] theorem begin_wideWrites (m : Mode) (st : Strategy) (p : Phase) : (s.begin m st p).wideWrites = s.wideWrites :=
  rfl

/-! ## `complete` -/

@[simp] theorem complete_rs : (s.complete).rs = s.rs := rfl
@[simp] theorem complete_rl : (s.complete).rl = s.rl := rfl
@[simp] theorem complete_tl : (s.complete).tl = s.tl := rfl
@[simp] theorem complete_rp : (s.complete).rp = s.rp := rfl
@[simp] theorem complete_inRun : (s.complete).inRun = s.inRun := rfl
@[simp] theorem complete_fv : (s.complete).fv = s.fv := rfl
@[simp] theorem complete_fin : (s.complete).fin = s.fin := rfl
@[simp] theorem complete_phase : (s.complete).phase = .idle := rfl
@[simp] theorem complete_strategy : (s.complete).strategy = s.strategy := rfl
@[simp] theorem complete_mode : (s.complete).mode = s.mode := rfl
@[simp] theorem complete_done : (s.complete).done = true := rfl
@[simp] theorem complete_ecode : (s.complete).ecode = s.ecode := rfl
@[simp] theorem complete_srcLen : (s.complete).srcLen = s.srcLen := rfl
@[simp] theorem complete_src : (s.complete).src = s.src := rfl
@[simp] theorem complete_srcb : (s.complete).srcb = s.srcb := rfl
@[simp] theorem complete_snk : (s.complete).snk = s.snk := rfl
@[simp] theorem complete_snkb : (s.complete).snkb = s.snkb := rfl
@[simp] theorem complete_inbox : (s.complete).inbox = s.inbox := rfl
@[simp] theorem complete_busData : (s.complete).busData = s.busData := rfl
@[simp] theorem complete_busBytes : (s.complete).busBytes = s.busBytes := rfl
@[simp] theorem complete_fresh : (s.complete).fresh = s.fresh := rfl
@[simp] theorem complete_wideWrites : (s.complete).wideWrites = s.wideWrites := rfl

/-! ## `setRs` -/

@[simp] theorem setRs_rs (v : Nat) : (s.setRs v).rs = BitVec.ofNat 16 v := rfl
@[simp] theorem setRs_rl (v : Nat) : (s.setRs v).rl = s.rl := rfl
@[simp] theorem setRs_tl (v : Nat) : (s.setRs v).tl = s.tl := rfl
@[simp] theorem setRs_rp (v : Nat) : (s.setRs v).rp = s.rp := rfl
@[simp] theorem setRs_inRun (v : Nat) : (s.setRs v).inRun = s.inRun := rfl
@[simp] theorem setRs_fv (v : Nat) : (s.setRs v).fv = s.fv := rfl
@[simp] theorem setRs_fin (v : Nat) : (s.setRs v).fin = s.fin := rfl
@[simp] theorem setRs_phase (v : Nat) : (s.setRs v).phase = s.phase := rfl
@[simp] theorem setRs_strategy (v : Nat) : (s.setRs v).strategy = s.strategy := rfl
@[simp] theorem setRs_mode (v : Nat) : (s.setRs v).mode = s.mode := rfl
@[simp] theorem setRs_done (v : Nat) : (s.setRs v).done = s.done := rfl
@[simp] theorem setRs_ecode (v : Nat) : (s.setRs v).ecode = s.ecode := rfl
@[simp] theorem setRs_srcLen (v : Nat) : (s.setRs v).srcLen = s.srcLen := rfl
@[simp] theorem setRs_src (v : Nat) : (s.setRs v).src = s.src := rfl
@[simp] theorem setRs_srcb (v : Nat) : (s.setRs v).srcb = s.srcb := rfl
@[simp] theorem setRs_snk (v : Nat) : (s.setRs v).snk = s.snk := rfl
@[simp] theorem setRs_snkb (v : Nat) : (s.setRs v).snkb = s.snkb := rfl
@[simp] theorem setRs_inbox (v : Nat) : (s.setRs v).inbox = s.inbox := rfl
@[simp] theorem setRs_busData (v : Nat) : (s.setRs v).busData = s.busData := rfl
@[simp] theorem setRs_busBytes (v : Nat) : (s.setRs v).busBytes = s.busBytes := rfl
@[simp] theorem setRs_fresh (v : Nat) : (s.setRs v).fresh = s.fresh := rfl
@[simp] theorem setRs_wideWrites (v : Nat) : (s.setRs v).wideWrites = s.wideWrites := rfl

/-! ## `setRl` -/

@[simp] theorem setRl_rs (v : Nat) : (s.setRl v).rs = s.rs := rfl
@[simp] theorem setRl_rl (v : Nat) : (s.setRl v).rl = v := rfl
@[simp] theorem setRl_tl (v : Nat) : (s.setRl v).tl = s.tl := rfl
@[simp] theorem setRl_rp (v : Nat) : (s.setRl v).rp = s.rp := rfl
@[simp] theorem setRl_inRun (v : Nat) : (s.setRl v).inRun = s.inRun := rfl
@[simp] theorem setRl_fv (v : Nat) : (s.setRl v).fv = s.fv := rfl
@[simp] theorem setRl_fin (v : Nat) : (s.setRl v).fin = s.fin := rfl
@[simp] theorem setRl_phase (v : Nat) : (s.setRl v).phase = s.phase := rfl
@[simp] theorem setRl_strategy (v : Nat) : (s.setRl v).strategy = s.strategy := rfl
@[simp] theorem setRl_mode (v : Nat) : (s.setRl v).mode = s.mode := rfl
@[simp] theorem setRl_done (v : Nat) : (s.setRl v).done = s.done := rfl
@[simp] theorem setRl_ecode (v : Nat) : (s.setRl v).ecode = s.ecode := rfl
@[simp] theorem setRl_srcLen (v : Nat) : (s.setRl v).srcLen = s.srcLen := rfl
@[simp] theorem setRl_src (v : Nat) : (s.setRl v).src = s.src := rfl
@[simp] theorem setRl_srcb (v : Nat) : (s.setRl v).srcb = s.srcb := rfl
@[simp] theorem setRl_snk (v : Nat) : (s.setRl v).snk = s.snk := rfl
@[simp] theorem setRl_snkb (v : Nat) : (s.setRl v).snkb = s.snkb := rfl
@[simp] theorem setRl_inbox (v : Nat) : (s.setRl v).inbox = s.inbox := rfl
@[simp] theorem setRl_busData (v : Nat) : (s.setRl v).busData = s.busData := rfl
@[simp] theorem setRl_busBytes (v : Nat) : (s.setRl v).busBytes = s.busBytes := rfl
@[simp] theorem setRl_fresh (v : Nat) : (s.setRl v).fresh = s.fresh := rfl
@[simp] theorem setRl_wideWrites (v : Nat) : (s.setRl v).wideWrites = s.wideWrites := rfl

/-! ## `setTl` -/

@[simp] theorem setTl_rs (v : Nat) : (s.setTl v).rs = s.rs := rfl
@[simp] theorem setTl_rl (v : Nat) : (s.setTl v).rl = s.rl := rfl
@[simp] theorem setTl_tl (v : Nat) : (s.setTl v).tl = BitVec.ofNat 16 v := rfl
@[simp] theorem setTl_rp (v : Nat) : (s.setTl v).rp = s.rp := rfl
@[simp] theorem setTl_inRun (v : Nat) : (s.setTl v).inRun = s.inRun := rfl
@[simp] theorem setTl_fv (v : Nat) : (s.setTl v).fv = s.fv := rfl
@[simp] theorem setTl_fin (v : Nat) : (s.setTl v).fin = s.fin := rfl
@[simp] theorem setTl_phase (v : Nat) : (s.setTl v).phase = s.phase := rfl
@[simp] theorem setTl_strategy (v : Nat) : (s.setTl v).strategy = s.strategy := rfl
@[simp] theorem setTl_mode (v : Nat) : (s.setTl v).mode = s.mode := rfl
@[simp] theorem setTl_done (v : Nat) : (s.setTl v).done = s.done := rfl
@[simp] theorem setTl_ecode (v : Nat) : (s.setTl v).ecode = s.ecode := rfl
@[simp] theorem setTl_srcLen (v : Nat) : (s.setTl v).srcLen = s.srcLen := rfl
@[simp] theorem setTl_src (v : Nat) : (s.setTl v).src = s.src := rfl
@[simp] theorem setTl_srcb (v : Nat) : (s.setTl v).srcb = s.srcb := rfl
@[simp] theorem setTl_snk (v : Nat) : (s.setTl v).snk = s.snk := rfl
@[simp] theorem setTl_snkb (v : Nat) : (s.setTl v).snkb = s.snkb := rfl
@[simp] theorem setTl_inbox (v : Nat) : (s.setTl v).inbox = s.inbox := rfl
@[simp] theorem setTl_busData (v : Nat) : (s.setTl v).busData = s.busData := rfl
@[simp] theorem setTl_busBytes (v : Nat) : (s.setTl v).busBytes = s.busBytes := rfl
@[simp] theorem setTl_fresh (v : Nat) : (s.setTl v).fresh = s.fresh := rfl
@[simp] theorem setTl_wideWrites (v : Nat) : (s.setTl v).wideWrites = s.wideWrites := rfl

/-! ## `latch` -/

@[simp] theorem latch_rs (w : Nat) : (s.latch w).rs = s.rs := rfl
@[simp] theorem latch_rl (w : Nat) : (s.latch w).rl = s.rl := rfl
@[simp] theorem latch_tl (w : Nat) : (s.latch w).tl = s.tl := rfl
@[simp] theorem latch_rp (w : Nat) : (s.latch w).rp = s.rp := rfl
@[simp] theorem latch_inRun (w : Nat) : (s.latch w).inRun = s.inRun := rfl
@[simp] theorem latch_fv (w : Nat) : (s.latch w).fv = s.fv := rfl
@[simp] theorem latch_fin (w : Nat) : (s.latch w).fin = s.fin := rfl
@[simp] theorem latch_phase (w : Nat) : (s.latch w).phase = s.phase := rfl
@[simp] theorem latch_strategy (w : Nat) : (s.latch w).strategy = strategyOfBit (w.testBit 1) := rfl
@[simp] theorem latch_mode (w : Nat) : (s.latch w).mode = modeOfBit (w.testBit 2) := rfl
@[simp] theorem latch_done (w : Nat) : (s.latch w).done = s.done := rfl
@[simp] theorem latch_ecode (w : Nat) : (s.latch w).ecode = s.ecode := rfl
@[simp] theorem latch_srcLen (w : Nat) : (s.latch w).srcLen = s.srcLen := rfl
@[simp] theorem latch_src (w : Nat) : (s.latch w).src = s.src := rfl
@[simp] theorem latch_srcb (w : Nat) : (s.latch w).srcb = s.srcb := rfl
@[simp] theorem latch_snk (w : Nat) : (s.latch w).snk = s.snk := rfl
@[simp] theorem latch_snkb (w : Nat) : (s.latch w).snkb = s.snkb := rfl
@[simp] theorem latch_inbox (w : Nat) : (s.latch w).inbox = s.inbox := rfl
@[simp] theorem latch_busData (w : Nat) : (s.latch w).busData = s.busData := rfl
@[simp] theorem latch_busBytes (w : Nat) : (s.latch w).busBytes = s.busBytes := rfl
@[simp] theorem latch_fresh (w : Nat) : (s.latch w).fresh = s.fresh := rfl
@[simp] theorem latch_wideWrites (w : Nat) : (s.latch w).wideWrites = s.wideWrites := rfl

/-! ## `setSrcLen` -/

@[simp] theorem setSrcLen_rs (v : Nat) : (s.setSrcLen v).rs = s.rs := rfl
@[simp] theorem setSrcLen_rl (v : Nat) : (s.setSrcLen v).rl = s.rl := rfl
@[simp] theorem setSrcLen_tl (v : Nat) : (s.setSrcLen v).tl = s.tl := rfl
@[simp] theorem setSrcLen_rp (v : Nat) : (s.setSrcLen v).rp = s.rp := rfl
@[simp] theorem setSrcLen_inRun (v : Nat) : (s.setSrcLen v).inRun = s.inRun := rfl
@[simp] theorem setSrcLen_fv (v : Nat) : (s.setSrcLen v).fv = s.fv := rfl
@[simp] theorem setSrcLen_fin (v : Nat) : (s.setSrcLen v).fin = s.fin := rfl
@[simp] theorem setSrcLen_phase (v : Nat) : (s.setSrcLen v).phase = s.phase := rfl
@[simp] theorem setSrcLen_strategy (v : Nat) : (s.setSrcLen v).strategy = s.strategy := rfl
@[simp] theorem setSrcLen_mode (v : Nat) : (s.setSrcLen v).mode = s.mode := rfl
@[simp] theorem setSrcLen_done (v : Nat) : (s.setSrcLen v).done = s.done := rfl
@[simp] theorem setSrcLen_ecode (v : Nat) : (s.setSrcLen v).ecode = s.ecode := rfl
@[simp] theorem setSrcLen_srcLen (v : Nat) : (s.setSrcLen v).srcLen = v := rfl
@[simp] theorem setSrcLen_src (v : Nat) : (s.setSrcLen v).src = s.src := rfl
@[simp] theorem setSrcLen_srcb (v : Nat) : (s.setSrcLen v).srcb = s.srcb := rfl
@[simp] theorem setSrcLen_snk (v : Nat) : (s.setSrcLen v).snk = s.snk := rfl
@[simp] theorem setSrcLen_snkb (v : Nat) : (s.setSrcLen v).snkb = s.snkb := rfl
@[simp] theorem setSrcLen_inbox (v : Nat) : (s.setSrcLen v).inbox = s.inbox := rfl
@[simp] theorem setSrcLen_busData (v : Nat) : (s.setSrcLen v).busData = s.busData := rfl
@[simp] theorem setSrcLen_busBytes (v : Nat) : (s.setSrcLen v).busBytes = s.busBytes := rfl
@[simp] theorem setSrcLen_fresh (v : Nat) : (s.setSrcLen v).fresh = s.fresh := rfl
@[simp] theorem setSrcLen_wideWrites (v : Nat) : (s.setSrcLen v).wideWrites = s.wideWrites := rfl

/-! ## `freeSrcLen` -/

@[simp] theorem freeSrcLen_rs : s.freeSrcLen.rs = s.rs := rfl
@[simp] theorem freeSrcLen_rl : s.freeSrcLen.rl = s.rl := rfl
@[simp] theorem freeSrcLen_tl : s.freeSrcLen.tl = s.tl := rfl
@[simp] theorem freeSrcLen_rp : s.freeSrcLen.rp = s.rp := rfl
@[simp] theorem freeSrcLen_inRun : s.freeSrcLen.inRun = s.inRun := rfl
@[simp] theorem freeSrcLen_fv : s.freeSrcLen.fv = s.fv := rfl
@[simp] theorem freeSrcLen_fin : s.freeSrcLen.fin = s.fin := rfl
@[simp] theorem freeSrcLen_phase : s.freeSrcLen.phase = s.phase := rfl
@[simp] theorem freeSrcLen_strategy : s.freeSrcLen.strategy = s.strategy := rfl
@[simp] theorem freeSrcLen_mode : s.freeSrcLen.mode = s.mode := rfl
@[simp] theorem freeSrcLen_done : s.freeSrcLen.done = s.done := rfl
@[simp] theorem freeSrcLen_ecode : s.freeSrcLen.ecode = s.ecode := rfl
@[simp] theorem freeSrcLen_srcLen : s.freeSrcLen.srcLen = Config.freeSrcLen s.wideWrites % 2 ^ Config.lenW := rfl
@[simp] theorem freeSrcLen_src : s.freeSrcLen.src = s.src := rfl
@[simp] theorem freeSrcLen_srcb : s.freeSrcLen.srcb = s.srcb := rfl
@[simp] theorem freeSrcLen_snk : s.freeSrcLen.snk = s.snk := rfl
@[simp] theorem freeSrcLen_snkb : s.freeSrcLen.snkb = s.snkb := rfl
@[simp] theorem freeSrcLen_inbox : s.freeSrcLen.inbox = s.inbox := rfl
@[simp] theorem freeSrcLen_busData : s.freeSrcLen.busData = s.busData := rfl
@[simp] theorem freeSrcLen_busBytes : s.freeSrcLen.busBytes = s.busBytes := rfl
@[simp] theorem freeSrcLen_fresh : s.freeSrcLen.fresh = s.fresh := rfl
@[simp] theorem freeSrcLen_wideWrites : s.freeSrcLen.wideWrites = s.wideWrites + 1 := rfl

/-! ## `setSrcb` -/

@[simp] theorem setSrcb_rs (bytes : List Byte) : (s.setSrcb bytes).rs = s.rs := rfl
@[simp] theorem setSrcb_rl (bytes : List Byte) : (s.setSrcb bytes).rl = s.rl := rfl
@[simp] theorem setSrcb_tl (bytes : List Byte) : (s.setSrcb bytes).tl = s.tl := rfl
@[simp] theorem setSrcb_rp (bytes : List Byte) : (s.setSrcb bytes).rp = s.rp := rfl
@[simp] theorem setSrcb_inRun (bytes : List Byte) : (s.setSrcb bytes).inRun = s.inRun := rfl
@[simp] theorem setSrcb_fv (bytes : List Byte) : (s.setSrcb bytes).fv = s.fv := rfl
@[simp] theorem setSrcb_fin (bytes : List Byte) : (s.setSrcb bytes).fin = s.fin := rfl
@[simp] theorem setSrcb_phase (bytes : List Byte) : (s.setSrcb bytes).phase = s.phase := rfl
@[simp] theorem setSrcb_strategy (bytes : List Byte) : (s.setSrcb bytes).strategy = s.strategy := rfl
@[simp] theorem setSrcb_mode (bytes : List Byte) : (s.setSrcb bytes).mode = s.mode := rfl
@[simp] theorem setSrcb_done (bytes : List Byte) : (s.setSrcb bytes).done = s.done := rfl
@[simp] theorem setSrcb_ecode (bytes : List Byte) : (s.setSrcb bytes).ecode = s.ecode := rfl
@[simp] theorem setSrcb_srcLen (bytes : List Byte) : (s.setSrcb bytes).srcLen = s.srcLen := rfl
@[simp] theorem setSrcb_src (bytes : List Byte) : (s.setSrcb bytes).src = s.src := rfl
@[simp] theorem setSrcb_srcb (bytes : List Byte) : (s.setSrcb bytes).srcb = bytes := rfl
@[simp] theorem setSrcb_snk (bytes : List Byte) : (s.setSrcb bytes).snk = s.snk := rfl
@[simp] theorem setSrcb_snkb (bytes : List Byte) : (s.setSrcb bytes).snkb = s.snkb := rfl
@[simp] theorem setSrcb_inbox (bytes : List Byte) : (s.setSrcb bytes).inbox = s.inbox := rfl
@[simp] theorem setSrcb_busData (bytes : List Byte) : (s.setSrcb bytes).busData = s.busData := rfl
@[simp] theorem setSrcb_busBytes (bytes : List Byte) : (s.setSrcb bytes).busBytes = s.busBytes := rfl
@[simp] theorem setSrcb_fresh (bytes : List Byte) : (s.setSrcb bytes).fresh = s.fresh := rfl
@[simp] theorem setSrcb_wideWrites (bytes : List Byte) : (s.setSrcb bytes).wideWrites = s.wideWrites := rfl

/-! ## `withInbox` -/

@[simp] theorem withInbox_rs (ops : List HostOp) : (s.withInbox ops).rs = s.rs := rfl
@[simp] theorem withInbox_rl (ops : List HostOp) : (s.withInbox ops).rl = s.rl := rfl
@[simp] theorem withInbox_tl (ops : List HostOp) : (s.withInbox ops).tl = s.tl := rfl
@[simp] theorem withInbox_rp (ops : List HostOp) : (s.withInbox ops).rp = s.rp := rfl
@[simp] theorem withInbox_inRun (ops : List HostOp) : (s.withInbox ops).inRun = s.inRun := rfl
@[simp] theorem withInbox_fv (ops : List HostOp) : (s.withInbox ops).fv = s.fv := rfl
@[simp] theorem withInbox_fin (ops : List HostOp) : (s.withInbox ops).fin = s.fin := rfl
@[simp] theorem withInbox_phase (ops : List HostOp) : (s.withInbox ops).phase = s.phase := rfl
@[simp] theorem withInbox_strategy (ops : List HostOp) : (s.withInbox ops).strategy = s.strategy := rfl
@[simp] theorem withInbox_mode (ops : List HostOp) : (s.withInbox ops).mode = s.mode := rfl
@[simp] theorem withInbox_done (ops : List HostOp) : (s.withInbox ops).done = s.done := rfl
@[simp] theorem withInbox_ecode (ops : List HostOp) : (s.withInbox ops).ecode = s.ecode := rfl
@[simp] theorem withInbox_srcLen (ops : List HostOp) : (s.withInbox ops).srcLen = s.srcLen := rfl
@[simp] theorem withInbox_src (ops : List HostOp) : (s.withInbox ops).src = s.src := rfl
@[simp] theorem withInbox_srcb (ops : List HostOp) : (s.withInbox ops).srcb = s.srcb := rfl
@[simp] theorem withInbox_snk (ops : List HostOp) : (s.withInbox ops).snk = s.snk := rfl
@[simp] theorem withInbox_snkb (ops : List HostOp) : (s.withInbox ops).snkb = s.snkb := rfl
@[simp] theorem withInbox_inbox (ops : List HostOp) : (s.withInbox ops).inbox = ops := rfl
@[simp] theorem withInbox_busData (ops : List HostOp) : (s.withInbox ops).busData = s.busData := rfl
@[simp] theorem withInbox_busBytes (ops : List HostOp) : (s.withInbox ops).busBytes = s.busBytes := rfl
@[simp] theorem withInbox_fresh (ops : List HostOp) : (s.withInbox ops).fresh = s.fresh := rfl
@[simp] theorem withInbox_wideWrites (ops : List HostOp) : (s.withInbox ops).wideWrites = s.wideWrites := rfl

/-! ## Host reads -/

@[simp] theorem readReg_rs (reg : Nat) : (readReg reg s).rs = s.rs := rfl
@[simp] theorem readReg_rl (reg : Nat) : (readReg reg s).rl = s.rl := rfl
@[simp] theorem readReg_tl (reg : Nat) : (readReg reg s).tl = s.tl := rfl
@[simp] theorem readReg_rp (reg : Nat) : (readReg reg s).rp = s.rp := rfl
@[simp] theorem readReg_inRun (reg : Nat) : (readReg reg s).inRun = s.inRun := rfl
@[simp] theorem readReg_fv (reg : Nat) : (readReg reg s).fv = s.fv := rfl
@[simp] theorem readReg_fin (reg : Nat) : (readReg reg s).fin = s.fin := rfl
@[simp] theorem readReg_phase (reg : Nat) : (readReg reg s).phase = s.phase := rfl
@[simp] theorem readReg_strategy (reg : Nat) : (readReg reg s).strategy = s.strategy := rfl
@[simp] theorem readReg_mode (reg : Nat) : (readReg reg s).mode = s.mode := rfl
@[simp] theorem readReg_done (reg : Nat) : (readReg reg s).done = s.done := rfl
@[simp] theorem readReg_ecode (reg : Nat) : (readReg reg s).ecode = s.ecode := rfl
@[simp] theorem readReg_srcLen (reg : Nat) : (readReg reg s).srcLen = s.srcLen := rfl
@[simp] theorem readReg_src (reg : Nat) : (readReg reg s).src = s.src := rfl
@[simp] theorem readReg_srcb (reg : Nat) : (readReg reg s).srcb = s.srcb := rfl
@[simp] theorem readReg_snk (reg : Nat) : (readReg reg s).snk = s.snk := rfl
@[simp] theorem readReg_snkb (reg : Nat) : (readReg reg s).snkb = s.snkb := rfl
@[simp] theorem readReg_inbox (reg : Nat) : (readReg reg s).inbox = s.inbox := rfl
@[simp] theorem readReg_busData (reg : Nat) : (readReg reg s).busData = s.regRead reg := rfl
@[simp] theorem readReg_busBytes (reg : Nat) : (readReg reg s).busBytes = s.busBytes := rfl
@[simp] theorem readReg_fresh (reg : Nat) : (readReg reg s).fresh = s.freshAfterRead := rfl
@[simp] theorem readReg_wideWrites (reg : Nat) : (readReg reg s).wideWrites = s.wideWrites := rfl

@[simp] theorem collect_rs : (collect s).rs = s.rs := rfl
@[simp] theorem collect_rl : (collect s).rl = s.rl := rfl
@[simp] theorem collect_tl : (collect s).tl = s.tl := rfl
@[simp] theorem collect_rp : (collect s).rp = s.rp := rfl
@[simp] theorem collect_inRun : (collect s).inRun = s.inRun := rfl
@[simp] theorem collect_fv : (collect s).fv = s.fv := rfl
@[simp] theorem collect_fin : (collect s).fin = s.fin := rfl
@[simp] theorem collect_phase : (collect s).phase = s.phase := rfl
@[simp] theorem collect_strategy : (collect s).strategy = s.strategy := rfl
@[simp] theorem collect_mode : (collect s).mode = s.mode := rfl
@[simp] theorem collect_done : (collect s).done = s.done := rfl
@[simp] theorem collect_ecode : (collect s).ecode = s.ecode := rfl
@[simp] theorem collect_srcLen : (collect s).srcLen = s.srcLen := rfl
@[simp] theorem collect_src : (collect s).src = s.src := rfl
@[simp] theorem collect_srcb : (collect s).srcb = s.srcb := rfl
@[simp] theorem collect_snk : (collect s).snk = s.snk := rfl
@[simp] theorem collect_snkb : (collect s).snkb = s.snkb := rfl
@[simp] theorem collect_inbox : (collect s).inbox = s.inbox := rfl
@[simp] theorem collect_busData : (collect s).busData = s.busData := rfl
@[simp] theorem collect_busBytes : (collect s).busBytes = s.snkbRead := rfl
@[simp] theorem collect_fresh : (collect s).fresh = s.freshAfterRead := rfl
@[simp] theorem collect_wideWrites : (collect s).wideWrites = s.wideWrites := rfl

/-! ## Reset at any time -/

@[simp] theorem hardReset_rs : (hardReset s).rs = State.reset.rs := rfl
@[simp] theorem hardReset_rl : (hardReset s).rl = State.reset.rl := rfl
@[simp] theorem hardReset_tl : (hardReset s).tl = State.reset.tl := rfl
@[simp] theorem hardReset_rp : (hardReset s).rp = State.reset.rp := rfl
@[simp] theorem hardReset_inRun : (hardReset s).inRun = State.reset.inRun := rfl
@[simp] theorem hardReset_fv : (hardReset s).fv = State.reset.fv := rfl
@[simp] theorem hardReset_fin : (hardReset s).fin = State.reset.fin := rfl
@[simp] theorem hardReset_phase : (hardReset s).phase = State.reset.phase := rfl
@[simp] theorem hardReset_strategy : (hardReset s).strategy = State.reset.strategy := rfl
@[simp] theorem hardReset_mode : (hardReset s).mode = State.reset.mode := rfl
@[simp] theorem hardReset_done : (hardReset s).done = State.reset.done := rfl
@[simp] theorem hardReset_ecode : (hardReset s).ecode = State.reset.ecode := rfl
@[simp] theorem hardReset_srcLen : (hardReset s).srcLen = State.reset.srcLen := rfl
@[simp] theorem hardReset_src : (hardReset s).src = State.reset.src := rfl
@[simp] theorem hardReset_srcb : (hardReset s).srcb = State.reset.srcb := rfl
@[simp] theorem hardReset_snk : (hardReset s).snk = State.reset.snk := rfl
@[simp] theorem hardReset_snkb : (hardReset s).snkb = State.reset.snkb := rfl
@[simp] theorem hardReset_inbox : (hardReset s).inbox = s.inbox := rfl
@[simp] theorem hardReset_busData : (hardReset s).busData = s.busData := rfl
@[simp] theorem hardReset_busBytes : (hardReset s).busBytes = s.busBytes := rfl
@[simp] theorem hardReset_fresh : (hardReset s).fresh = s.fresh := rfl
@[simp] theorem hardReset_wideWrites : (hardReset s).wideWrites = s.wideWrites := rfl

end Sys2Proof.Machine.State
end

