-- ==== Sys2Proof/Laws/Ops.lean ====
section
/-! SUPPORT. One lemma per shared operation: everything it can do. Later proofs cite these and do not unfold. -/

namespace Sys2Proof.Machine

/-! ## Sequencing -/

@[simp] theorem andThen_next (s : State) (k : State → Result) : andThen (.next s) k = k s := rfl

@[simp] theorem andThen_fault (r : Fault) (k : State → Result) : andThen (.fault r) k = .fault r := rfl

@[simp] theorem andThen_refused (r : Refusal) (k : State → Result) : andThen (.refused r) k = .refused r := rfl

theorem andThen_assoc (o : Result) (k l : State → Result) :
    andThen (andThen o k) l = andThen o fun s => andThen (k s) l := by
  cases o <;> rfl

/-- A sequence answers a next state exactly when both parts do. -/
theorem andThen_eq_next (o : Result) (k : State → Result) (t : State) :
    andThen o k = .next t ↔ ∃ s, o = .next s ∧ k s = .next t := by
  cases o <;> simp

/-! ## Views -/

@[simp] theorem busy_iff (s : State) : s.busy = true ↔ s.phase ≠ .idle := by simp [State.busy]

@[simp] theorem busy_eq_false_iff (s : State) : s.busy = false ↔ s.phase = .idle := by simp [State.busy]

@[simp] theorem err_iff (s : State) : s.err = true ↔ s.ecode ≠ .none := by simp [State.err]

@[simp] theorem err_eq_false_iff (s : State) : s.err = false ↔ s.ecode = .none := by simp [State.err]

@[simp] theorem isExh_iff (s : State) : s.isExh = true ↔ s.rp = s.srcLen := by simp [State.isExh]

@[simp] theorem isExh_eq_false_iff (s : State) : s.isExh = false ↔ s.rp ≠ s.srcLen := by
  simp [State.isExh]

theorem readable_iff (s : State) : s.readable = true ↔ s.phase = .idle ∧ s.ecode = .none := by
  simp [State.readable]

@[simp] theorem wp_append (s : State) (bs : List Bit) : (s.append bs).wp = s.wp + bs.length := by
  simp [State.wp]

/-! ## Source operations -/

/-- Everything `RDBIT` can answer with a bit: the source is not exhausted, the bit is the one at `RP`, and `RP` moves
by 1. -/
theorem rdbit_eq_some (s t : State) (b : Bit) :
    rdbit s = some (b, t) ↔ s.rp ≠ s.srcLen ∧ s.src[s.rp]? = some b ∧ t = s.advance 1 := by
  unfold rdbit
  by_cases h : s.rp = s.srcLen
  · simp [h, State.isExh]
  · cases hb : s.src[s.rp]? with
    | none => simp [h, State.isExh]
    | some c => simp [h, State.isExh]; grind

/-- `RDBIT` has a bit when the source is not exhausted and holds `SRC_LEN` bits. -/
theorem rdbit_of_lt (s : State) (hlen : s.src.length = s.srcLen) (h : s.rp < s.srcLen) :
    rdbit s = some (s.src[s.rp]'(hlen ▸ h), s.advance 1) := by
  rw [rdbit_eq_some]
  exact ⟨Nat.ne_of_lt h, List.getElem?_eq_getElem _, rfl⟩

/-- `RDUINT` with a legal width: enough bits, or `EndOfInput`. -/
theorem rduint_eq (s : State) (w : Nat) (h1 : 1 ≤ w) (h2 : w ≤ 32) :
    rduint w s = if s.srcLen - s.rp < w then .endOfInput else .ok (s.memRead s.rp w) (s.advance w) := by
  unfold rduint Config.fieldMin Config.fieldMax
  rw [if_neg (by omega)]

/-- A decoder's `RDUINT` with a legal width: the rule goes on past the field, or `TruncatedStream`. -/
theorem readField_eq (s : State) (w : Nat) (k : State → Result) (h1 : 1 ≤ w) (h2 : w ≤ 32) :
    readField w s k = if s.srcLen - s.rp < w then .next (s.raise .truncatedStream) else k (s.advance w) := by
  unfold readField
  rw [rduint_eq s w h1 h2]
  by_cases h : s.srcLen - s.rp < w <;> simp [h, Machine.raise]

/-! ## Sink operations -/

/-- Everything `WRUINT` with a legal width can do. -/
theorem wruint_eq (s : State) (v w : Nat) (h1 : 1 ≤ w) (h2 : w ≤ 32) :
    wruint v w s = if s.fin then .refused .writeAfterFinalize
      else if 2 ^ w ≤ v then .refused .valueTooWide else .next (s.append (bits w v)) := by
  unfold wruint Config.fieldMin Config.fieldMax
  rw [if_neg (by omega)]

/-- `WRUINT` inside its interface (R77). -/
theorem wruint_next (s : State) (v w : Nat) (h1 : 1 ≤ w) (h2 : w ≤ 32) (hf : s.fin = false) (hv : v < 2 ^ w) :
    wruint v w s = .next (s.append (bits w v)) := by
  rw [wruint_eq s v w h1 h2, hf, if_neg (by simp), if_neg (by omega)]

/-- `WRBIT` inside its interface (R76). -/
theorem wrbit_next (s : State) (b : Bit) (hf : s.fin = false) : wrbit b s = .next (s.append [b]) := by
  simp [wrbit, hf]

/-- `EMIT` inside its interface (R11). -/
theorem emit_next (s : State) (b : Bit) (n : Nat) (hf : s.fin = false) :
    emit b n s = .next (s.append (List.replicate n b)) := by
  simp [emit, hf]

@[simp] theorem append_nil (s : State) : s.append [] = s := by simp [State.append]

@[simp] theorem append_append (s : State) (a b : List Bit) : (s.append a).append b = s.append (a ++ b) := by
  simp [State.append]

/-- `EMIT` is successive `WRBIT`s (00_scope.md R11). -/
theorem emit_succ (s : State) (b : Bit) (n : Nat) : emit b (n + 1) s = andThen (wrbit b s) (emit b n) := by
  cases hf : s.fin
  · rw [emit_next s b _ hf, wrbit_next s b hf, andThen_next, emit_next (s.append [b]) b n hf, append_append]
    rfl
  · simp [emit, wrbit, hf]

/-- Everything an answered `FINALIZE` did. -/
theorem finalize_eq_next (s t : State) : finalize s = .next t ↔ s.fin = false ∧ t = s.seal := by
  unfold finalize
  cases s.fin <;> simp [eq_comm]

/-! ## The escape-chain writer -/

/-- Every field of a chain is in 0..255, so `WRUINT` takes it. -/
theorem escLoop_le_cap (turns n : Nat) (h : n ≤ Config.cap * (turns + 1)) : ∀ v ∈ escLoop turns n, v ≤ Config.cap := by
  induction turns generalizing n with
  | zero => intro v hv; simp only [escLoop, List.mem_singleton] at hv; omega
  | succ turns ih =>
    intro v hv
    unfold escLoop at hv
    split at hv
    · simp only [List.mem_cons] at hv
      rcases hv with rfl | rfl | hv
      · exact Nat.le_refl _
      · exact Nat.zero_le _
      · exact ih (n - Config.cap) (by rw [Nat.mul_add] at h; omega) v hv
    · simp only [List.mem_singleton] at hv; omega

theorem escFields_le_cap (n : Nat) : ∀ v ∈ escFields n, v ≤ Config.cap :=
  escLoop_le_cap n n (by unfold Config.cap; omega)

/-- Writing fields that fit appends their bits in order. -/
theorem writeFields_next (vs : List Nat) (s : State) (hf : s.fin = false) (h : ∀ v ∈ vs, v ≤ Config.cap) :
    writeFields vs s = .next (s.append (vs.flatMap (bits Config.arlW))) := by
  induction vs generalizing s with
  | nil => simp [writeFields]
  | cons v vs ih =>
    have hv : v < 2 ^ Config.arlW := by
      have := h v (List.mem_cons_self ..)
      unfold Config.cap at this; unfold Config.arlW; omega
    rw [writeFields, wruint_next s v Config.arlW (by decide) (by decide) hf hv, andThen_next,
      ih (s.append (bits Config.arlW v)) hf fun u hu => h u (List.mem_cons_of_mem _ hu), append_append,
      List.flatMap_cons]

/-- `ESC` inside a pass: the bits of `Esc(n)` are appended, whatever the kind of the first field (R85). -/
theorem esc_next (n : Nat) (f : Bit) (s : State) (hf : s.fin = false) :
    esc n f s = .next (s.append ((escFields n).flatMap (bits Config.arlW))) :=
  writeFields_next _ s hf (escFields_le_cap n)

/-! ## Start and completion -/

/-- The source a pass binds has `SRC_LEN` bits, whatever the host has supplied. -/
@[simp] theorem length_boundSource (s : State) : s.boundSource.length = s.srcLen := by
  simp only [State.boundSource, List.length_append, length_unpack, List.length_map, List.length_range]
  omega

/-- With all its bytes there, the source is what they unpack to (R123). -/
theorem boundSource_of_supplied (s : State) (h : s.srcLen ≤ 8 * s.srcb.length) :
    s.boundSource = unpack s.srcb s.srcLen := by
  simp [State.boundSource, Nat.sub_eq_zero_of_le h]

/-- The constraint of R7 on the open parameter. -/
theorem le_srcLenMax : 65536 ≤ Config.srcLenMax := by
  unfold Config.srcLenMax
  omega

/-- `SNK_LEN` is 5 bits wider than `SRC_LEN` (00_scope.md R7). -/
theorem two_pow_snkLenW : 2 ^ Config.snkLenW = 32 * 2 ^ Config.lenW := by
  rw [Config.snkLenW, Nat.pow_add, Nat.mul_comm]

theorem srcLenAllowed_iff (n : Nat) : Config.srcLenAllowed n = true ↔ n ≤ Config.srcLenMax := by
  have h := le_srcLenMax
  simp only [Config.srcLenAllowed, Bool.or_eq_true, decide_eq_true_eq]
  exact ⟨fun h1 => h1.elim (fun h2 => Nat.le_trans h2 h) id, .inr⟩

theorem fitsSrcLen_iff (n : Nat) : Config.fitsSrcLen n = true ↔ n < 2 ^ Config.lenW := by
  have h : Config.srcLenMax < 2 ^ Config.lenW := Nat.lt_size_self _
  have h2 := le_srcLenMax
  simp only [Config.fitsSrcLen, Bool.or_eq_true, decide_eq_true_eq]
  exact ⟨fun h1 => h1.elim (fun h3 => Nat.lt_of_le_of_lt (Nat.le_trans h3 h2) h) id, .inr⟩

/-- Everything a host write of `SRC_LEN` can do: it never stops. -/
theorem writeSrcLen_eq (v : Nat) (s : State) :
    writeSrcLen v s = .next
      (if s.busy then s else if v < 2 ^ Config.lenW then s.setSrcLen v else s.freeSrcLen) := by
  unfold writeSrcLen
  simp only [fitsSrcLen_iff]
  split
  · rfl
  · split <;> rfl

/-- Whatever is written, `SRC_LEN` still fits its register. -/
theorem freeSrcLen_lt (s : State) : s.freeSrcLen.srcLen < 2 ^ Config.lenW :=
  Nat.mod_lt _ (Nat.two_pow_pos _)

/-- Everything an answered `START` did. -/
theorem startPass_eq_next (m : Mode) (st : Strategy) (p : Phase) (s t : State) :
    startPass m st p s = .next t ↔ s.srcLen ≤ Config.srcLenMax ∧ t = s.begin m st p := by
  rw [← srcLenAllowed_iff]
  unfold startPass
  cases Config.srcLenAllowed s.srcLen <;> simp [eq_comm]

/-- Everything an answered `FINISH` did. -/
theorem finish_eq_next (s t : State) : finish s = .next t ↔ s.fin = false ∧ t = s.seal.complete := by
  unfold finish
  simp only [andThen_eq_next, finalize_eq_next, Host.Outcome.next.injEq]
  grind

/-! ## The record due at `RP` -/

/-- The window of a record always has the record's width. -/
@[simp] theorem length_window (s : State) (w : Nat) : (s.window w).length = w := by
  simp only [State.window, List.length_append, List.length_replicate]
  have : (((s.src.take s.srcLen).drop s.rp).take w).length ≤ w := List.length_take_le ..
  omega

/-- With enough source bits the window is those bits. -/
theorem window_of_complete (s : State) (w : Nat) (h : w ≤ ((s.src.take s.srcLen).drop s.rp).length) :
    s.window w = ((s.src.take s.srcLen).drop s.rp).take w := by
  have hl : (((s.src.take s.srcLen).drop s.rp).take w).length = w := by
    rw [List.length_take]; omega
  simp only [State.window, hl, Nat.sub_self, List.replicate_zero, List.append_nil]

end Sys2Proof.Machine
end

