-- ==== Sys2Proof/Laws/PerInstr.lean ====
section
/-! SUPPORT. What is said of every instruction as syntax, one lemma per constructor. -/

namespace Sys2Proof.Laws.EncodeWidth

/-- The encoder writes exactly as many bits as the word has at its place (30_encoding.md R53). -/
def Statement (i : Instr) : Prop := (encode i).length = i.place.width

theorem encPl : Statement .encPl := rfl
theorem encArl : Statement .encArl := rfl
theorem decPl : Statement .decPl := rfl
theorem decArl : Statement .decArl := rfl
theorem plHdr (len : Nat) : Statement (.plHdr len) := length_bits _ _
theorem plRun (start length : Nat) : Statement (.plRun start length) := by
  simp [Statement, encode, Instr.place, Place.width]
theorem arlZ (z : Nat) : Statement (.arlZ z) := length_bits _ _
theorem arlO (o : Nat) : Statement (.arlO o) := length_bits _ _

end Sys2Proof.Laws.EncodeWidth
end

