-- ==== Sys2Proof/Laws/Step.lean ====
section
/-! SUPPORT. What a step is, by what the host does in it, and what a command's meaning is, by its phase. -/

namespace Sys2Proof.Machine

/-! ## The step -/

/-- With no host operation waiting, a step is the core's own. -/
theorem step_of_no_op (s : State) (h : s.inbox = []) : step s = coreStep s := by
  simp [step, machineStep, h]

/-- With a host operation waiting, a step is that operation. -/
theorem step_of_op (s : State) (op : HostOp) (rest : List HostOp) (h : s.inbox = op :: rest) :
    step s = hostStep op (s.withInbox rest) := by
  simp [step, machineStep, h]

/-- In `IDLE` the core waits (44_pass_control.md R124). -/
theorem coreStep_idle (s : State) (h : s.phase = .idle) : coreStep s = .next s := by
  simp [coreStep, fetch, State.due, h]

/-- A core that fetches an instruction runs it. -/
theorem coreStep_of_fetch (s : State) (i : Instr) (h : fetch s = some i) : coreStep s = exec i s := by
  simp [coreStep, h]

/-- A record that is due is what the core fetches. -/
theorem fetch_of_due (s : State) (p : Place) (h : s.due = some p) : fetch s = some (s.recordAt p) := by
  simp [fetch, h]

/-- A complete record at `RP` is the record the decoder reads there. -/
theorem recordAt_of_decode (s : State) (p : Place) (i : Instr) (rest : List Bit)
    (h : decode p ((s.src.take s.srcLen).drop s.rp) = .ok (i, rest)) : s.recordAt p = i := by
  unfold decode at h
  split at h
  · simp at h
  · have hw : p.width ≤ ((s.src.take s.srcLen).drop s.rp).length := by omega
    simp only [Except.ok.injEq, Prod.mk.injEq] at h
    rw [State.recordAt, window_of_complete s _ hw, h.1]

/-! ## Runs -/

@[simp] theorem run_zero (s : State) : run 0 s = .next s := rfl

theorem run_succ (k : Nat) (s : State) : run (k + 1) s = andThen (step s) (run k) := rfl

/-- A run of `j + k` steps is a run of `j` followed by a run of `k`. -/
theorem run_add (j k : Nat) (s : State) : run (j + k) s = andThen (run j s) (run k) := by
  induction j generalizing s with
  | zero => simp
  | succ j ih =>
    rw [Nat.succ_add, run_succ, run_succ, andThen_assoc]
    congr 1
    funext t
    exact ih t

/-! ## The meaning of a command in each of its phases -/

section
variable (s : State)

theorem execEncPl_idle (h : s.phase = .idle) :
    execEncPl s = startPass .compress .positionLength .epCheck s := by simp [execEncPl, h]
theorem execEncPl_epCheck (h : s.phase = .epCheck) : execEncPl s = epCheck s := by simp [execEncPl, h]
theorem execEncPl_epHdr (h : s.phase = .epHdr) : execEncPl s = epHdr s := by simp [execEncPl, h]
theorem execEncPl_epScan (h : s.phase = .epScan) : execEncPl s = epScan s := by simp [execEncPl, h]
theorem execEncPl_finish (h : s.phase = .finish) : execEncPl s = finish s := by simp [execEncPl, h]

theorem execDecPl_idle (h : s.phase = .idle) :
    execDecPl s = startPass .expand .positionLength .dpHdr s := by simp [execDecPl, h]
theorem execDecPl_dpHdr (h : s.phase = .dpHdr) : execDecPl s = dpHdr s := by simp [execDecPl, h]
theorem execDecPl_dpRun (h : s.phase = .dpRun) : execDecPl s = dpRun s := by simp [execDecPl, h]
theorem execDecPl_dpTail (h : s.phase = .dpTail) : execDecPl s = dpTail s := by simp [execDecPl, h]
theorem execDecPl_finish (h : s.phase = .finish) : execDecPl s = finish s := by simp [execDecPl, h]

theorem execEncArl_idle (h : s.phase = .idle) :
    execEncArl s = startPass .compress .alternating .eaScan s := by simp [execEncArl, h]
theorem execEncArl_eaScan (h : s.phase = .eaScan) : execEncArl s = eaScan s := by simp [execEncArl, h]
theorem execEncArl_finish (h : s.phase = .finish) : execEncArl s = finish s := by simp [execEncArl, h]

theorem execDecArl_idle (h : s.phase = .idle) :
    execDecArl s = startPass .expand .alternating .daField s := by simp [execDecArl, h]
theorem execDecArl_daField (h : s.phase = .daField) : execDecArl s = daField s := by simp [execDecArl, h]
theorem execDecArl_finish (h : s.phase = .finish) : execDecArl s = finish s := by simp [execDecArl, h]

/-! In the phases in which a record is due, a decode command runs that record. -/

theorem dpHdr_eq : dpHdr s = exec (s.recordAt .plHeader) s := rfl

theorem dpRun_eq : dpRun s = if s.isExh then .next (s.goto .dpTail) else exec (s.recordAt .plRecord) s := rfl

theorem daField_eq : daField s =
    if s.isExh then .next (s.goto .finish)
    else if s.fv then exec (s.recordAt .arlOne) s else exec (s.recordAt .arlZero) s := rfl

end

end Sys2Proof.Machine
end

