-- ==== Sys2Proof/Tests/Slice0.lean ====
section
/-! SUPPORT. The model's own tests, small and of one step each, with expected results from 95_test_vectors.md and the
examples of the rules; and for every statement a witness that its hypotheses can be met. -/

namespace Sys2Proof.Tests

open Sys2Proof Sys2Proof.Machine

/-- The result is a next state that passes the check. -/
def holds (r : Result) (check : State → Bool) : Bool :=
  match r with
  | .next t => check t
  | .fault _ => false
  | .refused _ => false

/-- A state in a phase of a decode pass over the bytes given, at bit `rp`. -/
def decoding (st : Strategy) (p : Phase) (bytes : List Byte) (rp : Nat) : State :=
  { State.reset with
    mode := .expand, strategy := st, phase := p, src := unpackAll bytes, srcLen := 8 * bytes.length, rp := rp }

/-- A state in a phase of an encode pass over the bits given, at bit `rp`. -/
def encoding (st : Strategy) (p : Phase) (payload : List Bit) (rp : Nat) : State :=
  { State.reset with strategy := st, phase := p, src := payload, srcLen := payload.length, rp := rp }

/-- An idle state whose host has supplied the bytes given. -/
def supplied (bytes : List Byte) : State := { State.reset with srcb := bytes, srcLen := 8 * bytes.length }

/-! ## Well-formedness refuses what does not fit (30_encoding.md R58 to R61) -/

theorem test_wf_header_too_wide : (Instr.plHdr 65536).wellFormed = false := by decide
theorem test_wf_start_too_wide : (Instr.plRun 65536 0).wellFormed = false := by decide
theorem test_wf_length_too_wide : (Instr.plRun 0 256).wellFormed = false := by decide
theorem test_wf_zero_field_too_wide : (Instr.arlZ 256).wellFormed = false := by decide
theorem test_wf_one_field_too_wide : (Instr.arlO 256).wellFormed = false := by decide
theorem test_wf_widest : (Instr.plRun 65535 255).wellFormed = true := by decide

/-! ## Decoding, words written out bit by bit (30_encoding.md R55, R58 to R61) -/

theorem test_decode_command_00 : decodeFields .command [false, false] = .encPl := by decide
theorem test_decode_command_01 : decodeFields .command [false, true] = .encArl := by decide
theorem test_decode_command_10 : decodeFields .command [true, false] = .decPl := by decide
theorem test_decode_command_11 : decodeFields .command [true, true] = .decArl := by decide

/-- 95 part 2.4: `04 04` read as a header is 1028. -/
theorem test_decode_header : decodeFields .plHeader
    [false, false, false, false, false, true, false, false, false, false, false, false, false, true, false, false]
    = .plHdr 1028 := by decide

/-- `FF FE 01` is the record of a run at 65534 of length 1 (42_position_length.md R97). -/
theorem test_decode_run_record : decodeFields .plRecord
    [true, true, true, true, true, true, true, true, true, true, true, true, true, true, true, false,
     false, false, false, false, false, false, false, true]
    = .plRun 65534 1 := by decide

theorem test_decode_zero_field :
    decodeFields .arlZero [false, false, true, false, true, true, false, true] = .arlZ 45 := by decide
theorem test_decode_one_field :
    decodeFields .arlOne [false, false, true, false, true, true, false, true] = .arlO 45 := by decide

theorem test_table_words : [decodeTableWord 8 0, decodeTableWord 8 1, decodeTableWord 8 2, decodeTableWord 8 3,
    decodeTableWord 16 8, decodeTableWord 24 0x000404, decodeTableWord 8 4]
    = [some .encPl, some .encArl, some .decPl, some .decArl, some (.plHdr 8), some (.plRun 4 4), some (.arlZ 4)] := by
  decide

/-- The `CTRL` values of 95_test_vectors.md: 1, 3, 5, 7. -/
theorem test_start_words :
    [startWord .encPl, startWord .encArl, startWord .decPl, startWord .decArl] = [1, 3, 5, 7] := by decide

/-! ## Bits and bytes (95 part 2.1) -/

theorem test_pack_pads : pack [true, false, true, true, false] = [0xB0] := by decide
theorem test_pack_two_bytes : pack [false, false, false, false, true, true, true, true, true] = [0x0F, 0x80] := by decide
theorem test_unpack_ignores_low_bits : unpack [0xB7] 5 = [true, false, true, true, false] := by decide

/-! ## The escape chain (95 part 2.2) -/

theorem test_esc_255 : escFields 255 = [255] := by decide
theorem test_esc_511 : escFields 511 = [255, 0, 255, 0, 1] := by decide

/-! ## One step of each instruction -/

/-- 95 part 2.8: `CTRL <- 1` right after reset starts `ENC.PL`; during the pass `STATUS` is 1. -/
theorem test_start_after_reset :
    holds (step (State.reset.withFetchWord 8 0)) (fun t => t.phase == .epCheck && t.statusWord == 1) = true := by decide

/-- 95 P2, pass 1 step 15: leaving the run `(4, 8)` writes `00 04 08`. -/
theorem test_encPl_leaves_run :
    holds (execEncPl { encoding .positionLength .epScan (unpackAll [0x0F, 0xF0]) 12 with rs := 4, rl := 8, inRun := true })
      (fun t => pack t.snk == [0x00, 0x04, 0x08] && t.rp == 13 && !t.inRun) = true := by decide

set_option maxRecDepth 4000 in
/-- 95 P6, pass 1 step 258: the 256th `1`. -/
theorem test_encPl_256th_one :
    holds (execEncPl { encoding .positionLength .epScan (List.replicate 256 true) 255 with rl := 255, inRun := true })
      (fun t => t.ecode == .runLengthOverflow && t.rp == 256 && t.rl == 255) = true := by decide

/-- 95 P1, pass 1 step 5: the bit differs, `ESC(4, 0)` writes `04`. -/
theorem test_encArl_run_over :
    holds (execEncArl { encoding .alternating .eaScan (unpackAll [0x0F]) 4 with rl := 4 })
      (fun t => pack t.snk == [0x04] && t.fv && t.rl == 1 && t.rp == 5) = true := by decide

/-- 95 P3, pass 1 step 301: `ESC(300, 1)` at the end writes `FF 00 2D`. -/
theorem test_encArl_end_escapes :
    holds (execEncArl { encoding .alternating .eaScan [] 0 with rl := 300, fv := true })
      (fun t => pack t.snk == [0xFF, 0x00, 0x2D] && t.phase == .finish) = true := by decide

/-- 95 P5, step 3: the tail of a header `L == 12` with nothing emitted. -/
theorem test_decPl_tail :
    holds (execDecPl { decoding .positionLength .dpTail [0x00, 0x0C] 16 with tl := 12, snk := [true] })
      (fun t => t.snk == true :: List.replicate 11 false && t.phase == .finish) = true := by decide

/-- 43_alternating.md R117: exhaustion before the first field ends an empty stream. -/
theorem test_decArl_empty_stream :
    holds (execDecArl (decoding .alternating .daField [] 0)) (fun t => t.phase == .finish && t.ecode == .none) = true := by
  decide

/-- 95 P2, pass 2 step 1. -/
theorem test_plHdr :
    holds (step (decoding .positionLength .dpHdr [0x00, 0x10, 0x00, 0x04, 0x08] 0))
      (fun t => t.tl == 16 && t.rp == 16 && t.phase == .dpRun) = true := by decide

/-- 95 part 2.4: `00` is half a header. -/
theorem test_plHdr_truncated :
    holds (step (decoding .positionLength .dpHdr [0x00] 0)) (fun t => t.ecode == .truncatedStream && t.rp == 0) = true := by
  decide

/-- 95 P2, pass 2 step 2. -/
theorem test_plRun :
    holds (step { decoding .positionLength .dpRun [0x00, 0x10, 0x00, 0x04, 0x08] 16 with tl := 16 })
      (fun t => t.rp == 40 && pack t.snk == [0x0F, 0xF0]) = true := by decide

/-- 95 P4, step 3: `2 < 8`. -/
theorem test_plRun_out_of_order :
    holds (step { decoding .positionLength .dpRun [0x00, 0x08, 0x00, 0x02, 0x01] 16 with
        tl := 8, snk := List.replicate 8 true })
      (fun t => t.ecode == .corruptStream && t.rp == 40 && t.rs == 2 && t.wp == 8) = true := by decide

/-- 95 P1, pass 2 step 1. -/
theorem test_arlZ :
    holds (step (decoding .alternating .daField [0x04, 0x04] 0))
      (fun t => t.snk == List.replicate 4 false && t.fv && t.rp == 8 && t.rl == 4) = true := by decide

/-- 95 P1, pass 2 step 2. -/
theorem test_arlO :
    holds (step { decoding .alternating .daField [0x04, 0x04] 8 with fv := true })
      (fun t => t.snk == List.replicate 4 true && !t.fv && t.rp == 16) = true := by decide

/-- 44_pass_control.md R126 on the error path: `STATUS == 46` of 95 P4. -/
theorem test_finish_after_error :
    holds (step { decoding .positionLength .finish [] 0 with ecode := .corruptStream }) (fun t => t.statusWord == 0x46)
      = true := by decide

/-- 95 part 2.8: `CTRL <- 6` while idle only sets the fields. -/
theorem test_ctrl_write_without_start :
    holds (step { State.reset with inbox := [.write 0 6] })
      (fun t => t.ctrlWord == 6 && t.statusWord == 0 && t.phase == .idle) = true := by decide

/-! ## Witnesses -/

/-- Small values fit the length registers. -/
theorem lt_lenW {n : Nat} (h : n ≤ 65536) : n < 2 ^ Config.lenW :=
  (fitsSrcLen_iff n).1 (by simp [Config.fitsSrcLen, h])

/-- Small sinks fit `SNK_LEN`. -/
theorem lt_snkLenW {n : Nat} (h : n ≤ 65536) : n < 2 ^ Config.snkLenW := by
  have := lt_lenW h
  rw [two_pow_snkLenW]
  omega

/-- A `DEC.PL` pass about to read a header from an empty source. -/
def atHeader : State := decoding .positionLength .dpHdr [] 0

/-- A `DEC.PL` pass about to read the record `(4, 5)` of a payload of 8 bits. -/
def atCorrupt : State := { decoding .positionLength .dpRun [0x00, 0x08, 0x00, 0x04, 0x05] 16 with tl := 8 }

/-- An `ENC.PL` pass about to read the 256th `1`. -/
def at256th : State :=
  { encoding .positionLength .epScan (List.replicate 256 true) 255 with rl := 255, inRun := true }

/-- An `ENC.PL` pass about to check a length of 65536, the number of bits of `src`. -/
def atLongCheck (src : List Bit) : State := { State.reset with phase := .epCheck, src := src, srcLen := 65536 }

/-- A `DEC.ARL` pass about to read the field 4. -/
def atField : State := decoding .alternating .daField [0x04] 0

theorem inv_reset : Inv State.reset := by
  constructor <;> first | exact lt_lenW (by decide) | exact lt_snkLenW (by decide) | (simp [State.reset, Phase.owner, Phase.opening, Phase.atRecord])

theorem inv_atHeader : Inv atHeader := by
  constructor <;> first
    | exact lt_lenW (by decide)
    | exact lt_snkLenW (by decide)
    | decide

theorem inv_atCorrupt : Inv atCorrupt := by
  constructor <;> first
    | exact lt_lenW (by decide)
    | exact lt_snkLenW (by decide)
    | decide

set_option maxRecDepth 4000 in
theorem inv_at256th : Inv at256th := by
  constructor <;> first
    | exact lt_lenW (by decide)
    | exact lt_snkLenW (by decide)
    | decide

theorem inv_atField : Inv atField := by
  constructor <;> first
    | exact lt_lenW (by decide)
    | exact lt_snkLenW (by decide)
    | decide

theorem inv_atLongCheck (src : List Bit) (h : src.length = 65536) : Inv (atLongCheck src) := by
  constructor <;> first
    | exact lt_lenW (show (65536 : Nat) ≤ 65536 by decide)
    | exact lt_lenW (show (0 : Nat) ≤ 65536 by decide)
    | exact lt_snkLenW (show (0 : Nat) ≤ 65536 by decide)
    | exact fun _ => ⟨h, rfl⟩
    | simp [atLongCheck, State.reset, Phase.owner, Phase.opening, Phase.atRecord, State.command, commandOf]

/-! Encoding -/

theorem witness_DecodeOfEncode :
    (Instr.plRun 65535 255).wellFormed = true ∧ (Instr.plHdr 65535).wellFormed = true ∧
    (Instr.arlZ 255).wellFormed = true ∧ (Instr.arlO 0).wellFormed = true ∧ Instr.encPl.wellFormed = true := by decide

theorem witness_EveryCompleteWordIsAnInstruction :
    (List.replicate 23 true).length < Place.plRecord.width ∧ Place.plRecord.width ≤ (List.replicate 24 true).length := by
  decide

/-! The step -/

theorem witness_StepRunsTheRecordAtRP :
    (atField.due = some .arlZero ∧ atField.inbox = [] ∧
      decode .arlZero ((atField.src.take atField.srcLen).drop atField.rp) = .ok (.arlZ 4, [])) ∧
    ∃ s : State, s.due = some .arlZero ∧ s.inbox = [.yield] ∧
      decode .arlZero ((s.src.take s.srcLen).drop s.rp) = .ok (.arlZ 4, []) :=
  ⟨⟨rfl, rfl, rfl⟩, { atField with inbox := [.yield] }, rfl, rfl, rfl⟩

theorem witness_StepIsTheCommandsNextStep : Inv atField ∧ atField.busy = true ∧ atField.inbox = [] :=
  ⟨inv_atField, by decide, rfl⟩

theorem witness_IdleCoreWaits :
    (State.reset.phase = .idle ∧ State.reset.inbox = []) ∧ ∃ s : State, s.phase = .idle ∧ s.inbox = [.yield] :=
  ⟨⟨rfl, rfl⟩, { State.reset with inbox := [.yield] }, rfl, rfl⟩

theorem witness_PlacedWordRuns :
    decodeTableWord 8 3 = some .decArl ∧ decodeTableWord 24 0x000404 = some (.plRun 4 4) := by decide

/-! The host port -/

theorem witness_CtrlWrite :
    (∃ s : State, s.inbox = [.write 0 7] ∧ s.busy = true) ∧
    (∃ s : State, s.inbox = [.write 0 6] ∧ s.busy = false ∧ Nat.testBit 6 0 = false) ∧
    (∃ s : State, s.inbox = [.write 0 7] ∧ s.busy = false ∧ Nat.testBit 7 0 = true) :=
  ⟨⟨{ atField with inbox := [.write 0 7] }, rfl, by decide⟩,
    ⟨{ State.reset with inbox := [.write 0 6] }, rfl, by decide, by decide⟩,
    ⟨{ State.reset with inbox := [.write 0 7] }, rfl, by decide, by decide⟩⟩

theorem witness_SrcLenWrite :
    (∃ s : State, s.inbox = [.write 2 8] ∧ s.busy = true) ∧
    (∃ s : State, s.inbox = [.write 2 Config.srcLenMax] ∧ s.busy = false ∧ Config.srcLenMax < 2 ^ Config.lenW) ∧
    (∃ s : State, s.inbox = [.write 2 (2 ^ Config.lenW)] ∧ s.busy = false ∧ 2 ^ Config.lenW ≤ 2 ^ Config.lenW) :=
  ⟨⟨{ atField with inbox := [.write 2 8] }, rfl, rfl⟩,
    ⟨{ State.reset with inbox := [.write 2 Config.srcLenMax] }, rfl, rfl, Nat.lt_size_self _⟩,
    ⟨{ State.reset with inbox := [.write 2 (2 ^ Config.lenW)] }, rfl, rfl, Nat.le_refl _⟩⟩

theorem witness_OtherRegisters :
    (∃ s : State, s.inbox = [.write 1 0] ∧ 1 ≠ 0 ∧ 1 ≠ 2) ∧ (∃ s : State, s.inbox = [.write 3 0]) ∧
    (∃ s : State, s.inbox = [.read 5] ∧ 4 < 5) :=
  ⟨⟨{ State.reset with inbox := [.write 1 0] }, rfl, by decide, by decide⟩,
    ⟨{ State.reset with inbox := [.write 3 0] }, rfl⟩, ⟨{ State.reset with inbox := [.read 5] }, rfl, by decide⟩⟩

theorem witness_HostReads :
    (∃ s : State, s.inbox = [.read 4] ∧ s.busy = false ∧ s.ecode = .none) ∧
    (∃ s : State, s.inbox = [.collect] ∧ s.busy = false ∧ s.ecode = .none) :=
  ⟨⟨{ State.reset with inbox := [.read 4] }, rfl, rfl, rfl⟩, ⟨{ State.reset with inbox := [.collect] }, rfl, rfl, rfl⟩⟩

theorem witness_UnreadableTellsNothing :
    atField.busy = true ∧ ∃ s : State, s.busy = false ∧ s.ecode ≠ .none :=
  ⟨by decide, { State.reset with ecode := .corruptStream, done := true }, by decide, by decide⟩

theorem witness_SupplySource :
    (∃ s : State, s.inbox = [.supply [0x0F]] ∧ s.busy = false) ∧ (∃ s : State, s.inbox = [.supply [0x0F]] ∧ s.busy = true) :=
  ⟨⟨{ State.reset with inbox := [.supply [0x0F]] }, rfl, rfl⟩, ⟨{ atField with inbox := [.supply [0x0F]] }, rfl, rfl⟩⟩

theorem witness_Reset : ∃ s : State, s.inbox = [.reset] ∧ s.busy = true :=
  ⟨{ atField with inbox := [.reset] }, rfl, rfl⟩

/-! Starting a pass -/

theorem passReady_supplied : PassReady (supplied [0x0F]) := by
  refine ⟨rfl, rfl, ?_, ?_⟩ <;> decide

theorem witness_StartBeginsThePass :
    (supplied [0x0F]).phase = .idle ∧ (supplied [0x0F]).srcLen ≤ Config.srcLenMax ∧
    (supplied [0x0F]).srcLen ≤ 8 * (supplied [0x0F]).srcb.length :=
  ⟨rfl, (srcLenAllowed_iff _).1 (by decide), by decide⟩

theorem witness_StartAboveMaxRefused : ∃ s : State, s.phase = .idle ∧ Config.srcLenMax < s.srcLen :=
  ⟨{ State.reset with srcLen := Config.srcLenMax + 1 }, rfl, Nat.lt_succ_self _⟩

theorem witness_StartWithAnyBytes :
    ∃ s : State, Instr.encArl.place = .command ∧ s.phase = .idle ∧ s.srcLen ≤ Config.srcLenMax ∧ s.srcb = [] ∧ s.srcLen = 9 :=
  ⟨{ State.reset with srcLen := 9 }, rfl, rfl, (srcLenAllowed_iff _).1 (by decide), rfl, rfl⟩

theorem witness_OtherCommandIgnored :
    Instr.encPl.place = .command ∧ atField.phase.owner = some .decArl ∧ Instr.encPl ≠ .decArl := by decide

/-! ENC.PL -/

theorem witness_EncPlCheck :
    (∃ s : State, s.phase = .epCheck ∧ 65535 < s.srcLen) ∧ (∃ s : State, s.phase = .epCheck ∧ s.srcLen = 65535) :=
  ⟨⟨atLongCheck [], rfl, by decide⟩, ⟨{ atLongCheck [] with srcLen := 65535 }, rfl, rfl⟩⟩

theorem witness_EncPlHeader :
    (∃ s : State, s.phase = .epHdr ∧ s.fin = false ∧ s.srcLen = 65535) ∧
    ∃ s : State, s.phase = .epHdr ∧ s.fin = false ∧ s.srcLen ≤ 65535 ∧ Inv s := by
  refine ⟨⟨{ State.reset with phase := .epHdr, srcLen := 65535 }, rfl, rfl, rfl⟩,
    encoding .positionLength .epHdr [] 0, rfl, rfl, by decide, ?_⟩
  constructor <;> first | exact lt_lenW (by decide) | exact lt_snkLenW (by decide) | decide

/-- The premises all clauses of `EncPlScanBit` share. -/
def scanning (s : State) (b : Bit) : Prop :=
  s.phase = .epScan ∧ s.fin = false ∧ s.rp < s.srcLen ∧ s.src[s.rp]? = some b

theorem witness_EncPlScanBit :
    (∃ s, scanning s true ∧ s.inRun = false ∧ s.rp ≤ 65535) ∧
    (∃ s, scanning s true ∧ s.inRun = true ∧ s.rl = 255) ∧
    (∃ s, scanning s true ∧ s.inRun = true ∧ s.rl = 254) ∧
    (∃ s, scanning s false ∧ s.inRun = false) ∧
    (∃ s, scanning s false ∧ s.inRun = true ∧ s.rl = 255) :=
  ⟨⟨encoding .positionLength .epScan [true] 0, ⟨rfl, rfl, by decide, rfl⟩, rfl, by decide⟩,
    ⟨{ encoding .positionLength .epScan [true] 0 with inRun := true, rl := 255 }, ⟨rfl, rfl, by decide, rfl⟩, rfl, rfl⟩,
    ⟨{ encoding .positionLength .epScan [true] 0 with inRun := true, rl := 254 }, ⟨rfl, rfl, by decide, rfl⟩, rfl, rfl⟩,
    ⟨encoding .positionLength .epScan [false] 0, ⟨rfl, rfl, by decide, rfl⟩, rfl⟩,
    ⟨{ encoding .positionLength .epScan [false] 0 with inRun := true, rl := 255 }, ⟨rfl, rfl, by decide, rfl⟩, rfl, rfl⟩⟩

theorem witness_EncPlScanEnd :
    (∃ s : State, s.phase = .epScan ∧ s.fin = false ∧ s.rp = s.srcLen ∧ s.inRun = true ∧ s.rl = 255) ∧
    (∃ s : State, s.phase = .epScan ∧ s.fin = false ∧ s.rp = s.srcLen ∧ s.inRun = false) :=
  ⟨⟨{ encoding .positionLength .epScan [true] 1 with inRun := true, rl := 255 }, rfl, rfl, rfl, rfl, rfl⟩,
    ⟨encoding .positionLength .epScan [] 0, rfl, rfl, rfl, rfl⟩⟩

/-! DEC.PL and its records -/

theorem witness_PlHeaderRecord :
    (∃ s : State, 65535 < 65536 ∧ s.srcLen - s.rp = 15) ∧ (∃ s : State, s.srcLen - s.rp = 16) ∧
    (Inv atHeader ∧ atHeader.phase = .dpHdr) :=
  ⟨⟨{ State.reset with srcLen := 15 }, by decide, rfl⟩, ⟨{ State.reset with srcLen := 16 }, rfl⟩, inv_atHeader, rfl⟩

theorem witness_PlRunRecord :
    (∃ s : State, s.fin = false ∧ s.srcLen - s.rp = 15) ∧ (∃ s : State, s.fin = false ∧ s.srcLen - s.rp = 16) ∧
    (∃ s : State, s.fin = false ∧ s.srcLen - s.rp = 23) ∧
    (∃ s : State, s.fin = false ∧ s.srcLen - s.rp = 24 ∧ 3 < s.snk.length ∧ 3 < 65536 ∧ 4 < 256) ∧
    (∃ s : State, s.fin = false ∧ s.srcLen - s.rp = 24 ∧ s.tl.toNat < 4 + 5) ∧
    (∃ s : State, s.fin = false ∧ s.srcLen - s.rp = 24 ∧ s.snk.length = 4 ∧ 4 + 4 = s.tl.toNat) :=
  ⟨⟨{ State.reset with srcLen := 15 }, rfl, rfl⟩, ⟨{ State.reset with srcLen := 16 }, rfl, rfl⟩,
    ⟨{ State.reset with srcLen := 23 }, rfl, rfl⟩,
    ⟨{ State.reset with srcLen := 24, snk := List.replicate 4 false, tl := 8 }, rfl, rfl, by decide, by decide, by decide⟩,
    ⟨{ State.reset with srcLen := 24, tl := 8 }, rfl, rfl, by decide⟩,
    ⟨{ State.reset with srcLen := 24, snk := List.replicate 4 false, tl := 8 }, rfl, rfl, rfl, by decide⟩⟩

theorem witness_DecPlEnd :
    (∃ s : State, s.phase = .dpRun ∧ s.rp = s.srcLen) ∧
    (∃ s : State, s.phase = .dpTail ∧ s.fin = false ∧ s.snk.length = s.tl.toNat) ∧
    (∃ s : State, s.phase = .dpTail ∧ s.fin = false ∧ s.snk.length < s.tl.toNat) :=
  ⟨⟨{ State.reset with phase := .dpRun }, rfl, rfl⟩, ⟨{ State.reset with phase := .dpTail }, rfl, rfl, rfl⟩,
    ⟨{ State.reset with phase := .dpTail, tl := 8 }, rfl, rfl, by decide⟩⟩

/-! ENC.ARL -/

theorem witness_EncArlScanBit :
    (∃ s : State, s.phase = .eaScan ∧ s.fin = false ∧ s.rp < s.srcLen ∧ s.src[s.rp]? = some false ∧ false = s.fv) ∧
    (∃ s : State, s.phase = .eaScan ∧ s.fin = false ∧ s.rp < s.srcLen ∧ s.src[s.rp]? = some true ∧ true ≠ s.fv) :=
  ⟨⟨encoding .alternating .eaScan [false] 0, rfl, rfl, by decide, rfl, rfl⟩,
    ⟨encoding .alternating .eaScan [true] 0, rfl, rfl, by decide, rfl, by decide⟩⟩

theorem witness_EncArlScanEnd :
    (∃ s : State, s.phase = .eaScan ∧ s.fin = false ∧ s.rp = s.srcLen ∧ 0 < s.rl) ∧
    (∃ s : State, s.phase = .eaScan ∧ s.fin = false ∧ s.rp = s.srcLen ∧ s.rl = 0) :=
  ⟨⟨{ encoding .alternating .eaScan [true] 1 with rl := 1 }, rfl, rfl, rfl, by decide⟩,
    ⟨encoding .alternating .eaScan [] 0, rfl, rfl, rfl, rfl⟩⟩

/-! DEC.ARL and its records -/

theorem witness_ArlRecords :
    (∃ s : State, s.fin = false ∧ s.srcLen - s.rp = 7) ∧ (∃ s : State, s.fin = false ∧ s.srcLen - s.rp = 8) :=
  ⟨⟨{ State.reset with srcLen := 7 }, rfl, rfl⟩, ⟨{ State.reset with srcLen := 8 }, rfl, rfl⟩⟩

theorem witness_DecArlEnd : ∃ s : State, s.phase = .daField ∧ s.rp = s.srcLen :=
  ⟨decoding .alternating .daField [0x04] 8, rfl, rfl⟩

/-! Completion and errors -/

theorem witness_FinishCompletes :
    ∃ s : State, Instr.decPl.place = .command ∧ s.phase = .finish ∧ s.fin = false :=
  ⟨decoding .positionLength .finish [] 0, rfl, rfl, rfl⟩

/-- The premises of `ErrorsRaisedExactlyOnCause` and `ErrorEntry`, in a state whose next step raises `e`. -/
def raising (s t : State) (e : ECode) : Prop :=
  Inv s ∧ s.busy = true ∧ s.inbox = [] ∧ s.ecode = .none ∧ step s = .next t ∧ t.ecode = e ∧ e ≠ .none

theorem witness_raises_lengthOverflow : ∃ s t, raising s t .lengthOverflow := by
  obtain ⟨src, h⟩ : ∃ src : List Bit, src.length = 65536 := ⟨List.replicate 65536 false, List.length_replicate⟩
  exact ⟨atLongCheck src, _, inv_atLongCheck src h, rfl, rfl, rfl, rfl, rfl, by decide⟩

set_option maxRecDepth 4000 in
theorem witness_raises_runLengthOverflow : ∃ t, raising at256th t .runLengthOverflow :=
  ⟨_, inv_at256th, rfl, rfl, rfl, rfl, rfl, by decide⟩

theorem witness_raises_truncatedStream : ∃ t, raising atHeader t .truncatedStream :=
  ⟨_, inv_atHeader, rfl, rfl, rfl, rfl, rfl, by decide⟩

theorem witness_raises_corruptStream : ∃ t, raising atCorrupt t .corruptStream :=
  ⟨_, inv_atCorrupt, rfl, rfl, rfl, rfl, rfl, by decide⟩

theorem witness_PhaseTransitions : ∃ t, atField.inbox = [] ∧ step atField = .next t := ⟨_, rfl, rfl⟩

/-! Invariants and whole-machine rules -/

theorem witness_StepKeepsInv : ∃ t, Inv atField ∧ step atField = .next t := ⟨_, inv_atField, rfl⟩

theorem witness_OnlyTheHostCanStop :
    (Inv atField ∧ atField.inbox = []) ∧
    ∃ s r, Inv s ∧ step s = .refused r :=
  ⟨⟨inv_atField, rfl⟩, { atField with inbox := [.supply []] }, .sourceChangedDuringPass,
    { inv_atField with }, rfl⟩

theorem witness_ForwardOnly :
    ∃ t, atField.busy = true ∧ atField.inbox.head? ≠ some .reset ∧ step atField = .next t :=
  ⟨_, rfl, by decide, rfl⟩

theorem witness_InstructionFrame :
    (∃ t, atField.phase ≠ .idle ∧ exec (.arlZ 4) atField = .next t ∧ atField.phase ≠ .finish) ∧
    (∃ t, atHeader.phase ≠ .idle ∧ exec (.plHdr 8) atHeader = .next t) :=
  ⟨⟨_, by decide, rfl, by decide⟩, ⟨_, by decide, rfl⟩⟩

theorem witness_EveryPassTerminates : Inv at256th ∧ at256th.busy = true ∧ at256th.inbox = [] :=
  ⟨inv_at256th, rfl, rfl⟩

theorem witness_PassesAreIndependent :
    ∃ s₂ t₁, Instr.decArl.place = .command ∧ PassReady (supplied [0x0F]) ∧ PassReady s₂ ∧ s₂ ≠ supplied [0x0F] ∧
      (supplied [0x0F]).srcLen = s₂.srcLen ∧ (supplied [0x0F]).payload = s₂.payload ∧
      andThen (exec .decArl (supplied [0x0F])) (run 0) = .next t₁ :=
  ⟨{ supplied [0x0F] with rs := 7, ecode := .corruptStream }, _, rfl, passReady_supplied, passReady_supplied,
    by decide, rfl, rfl, rfl⟩

/-! What a pass computes -/

theorem witness_PassComputes : PassReady (supplied [0x0F]) ∧ PassReady State.reset :=
  ⟨passReady_supplied, rfl, rfl, by decide, by decide⟩

/-- A sequence shorter than 256 bits has no run of 256. -/
theorem no_long_run {b : List Bit} (h : b.length < 256) : ¬ List.replicate 256 true <:+: b := by
  intro hb
  have := hb.length_le
  rw [List.length_replicate] at this
  omega

theorem witness_RoundTripA :
    ((List.replicate 255 true).length ≤ 65535 ∧ ¬ List.replicate 256 true <:+: List.replicate 255 true) ∧
    (∃ b : List Bit, 65535 < b.length) ∧ (∃ b : List Bit, b.length ≤ 65535 ∧ List.replicate 256 true <:+: b) :=
  ⟨⟨by rw [List.length_replicate]; omega, no_long_run (by rw [List.length_replicate]; omega)⟩,
    ⟨List.replicate 65536 true, by rw [List.length_replicate]; omega⟩,
    ⟨List.replicate 256 true, by rw [List.length_replicate]; omega, List.infix_refl _⟩⟩

theorem witness_ExpandUndoesCompressA :
    (PassReady State.reset ∧ State.reset.srcLen ≤ 65535 ∧ ¬ List.replicate 256 true <:+: State.reset.payload) ∧
    holds (andThen (exec .encPl State.reset) (run 4)) (fun t => t.statusWord == 2 && t.snkbRead == [0x00, 0x00]) = true ∧
    PassReady (supplied [0x00, 0x00]) ∧ (supplied [0x00, 0x00]).srcLen = 8 * (supplied [0x00, 0x00]).srcb.length :=
  ⟨⟨witness_PassComputes.2, by decide, no_long_run (by decide)⟩, by decide, ⟨rfl, rfl, by decide, by decide⟩, rfl⟩

theorem witness_ExpandUndoesCompressB :
    PassReady State.reset ∧
    holds (andThen (exec .encArl State.reset) (run 2)) (fun t => t.statusWord == 2 && t.snkbRead == []) = true ∧
    PassReady (supplied []) ∧ (supplied []).srcLen = 8 * (supplied []).srcb.length :=
  ⟨witness_PassComputes.2, by decide, ⟨rfl, rfl, by decide, by decide⟩, rfl⟩

/-! The functions -/

theorem witness_Framer :
    (∃ s : State, s.rp = s.srcLen) ∧ (atField.rp ≠ atField.srcLen ∧ atField.src[atField.rp]? = some false) ∧
    (atField.srcLen - atField.rp < 9 ∧ 8 ≤ atField.srcLen - atField.rp) ∧
    State.reset.fin = false ∧ 255 < 2 ^ 8 ∧ 2 ^ 8 ≤ 256 ∧ (∃ s : State, s.fin = true) ∧ 32 < 33 :=
  ⟨⟨State.reset, rfl⟩, ⟨by decide, rfl⟩, by decide, rfl, by decide, by decide,
    ⟨{ State.reset with fin := true }, rfl⟩, by decide⟩

theorem witness_DecPlLength : decPL (List.replicate 16 false) = .ok [] := by decide

theorem witness_DecArlFailsOnlyMidField :
    (List.replicate 8 true).length % 8 = 0 ∧ (List.replicate 7 true).length % 8 ≠ 0 := by decide

theorem witness_SinkBounds :
    (∃ b t, b.length ≤ Config.srcLenMax ∧ encPL b = .ok t) ∧
    (∃ s out, s.length ≤ Config.srcLenMax ∧ decPL s = .ok out) ∧
    (∃ s out, s.length ≤ Config.srcLenMax ∧ decARL s = .ok out) ∧
    ∃ b : List Bit, b.length = Config.srcLenMax :=
  ⟨⟨[], _, Nat.zero_le _, rfl⟩,
    ⟨List.replicate 16 false, [], Nat.le_trans (by decide) le_srcLenMax, witness_DecPlLength⟩,
    ⟨[], [], Nat.zero_le _, rfl⟩, ⟨List.replicate _ false, List.length_replicate⟩⟩

end Sys2Proof.Tests
end

section
/-! PROOF. A host write of `SRC_LEN` (00_scope.md R7, 10_state.md R28). -/

namespace Sys2Proof.Machine

/-- `SRC_LEN` can hold every length a pass accepts (R7). -/
theorem srcLenMax_lt_two_pow_lenW : Config.srcLenMax < 2 ^ Config.lenW := Nat.lt_size_self _

@[simp] theorem busy_withInbox (s : State) (ops : List HostOp) : (s.withInbox ops).busy = s.busy := rfl

/-- The step in which the host writes `SRC_LEN` (R28). -/
theorem step_write_srcLen (s : State) (v : Nat) (ops : List HostOp) (h : s.inbox = .write 2 v :: ops) :
    step s = .next (if s.busy then s.withInbox ops
      else if v < 2 ^ Config.lenW then (s.withInbox ops).setSrcLen v else (s.withInbox ops).freeSrcLen) :=
  calc step s = writeSrcLen v (s.withInbox ops) := step_of_op s _ ops h
    _ = _ := by rw [writeSrcLen_eq, busy_withInbox]

/-- Settles O9: the step is the write itself, whose three branches (busy, a value that fits, one that does not) are the
three clauses. -/
theorem srcLenWrite : Obligations.SrcLenWrite := by
  unfold Obligations.SrcLenWrite
  refine ⟨srcLenMax_lt_two_pow_lenW, fun s v ops h => ?_⟩
  rw [step_write_srcLen s v ops h]
  refine ⟨fun hbusy => ?_, fun hidle hfits => ?_, fun hidle hwide => ?_⟩
  · rw [if_pos hbusy, State.withInbox]
  · rw [if_neg (Bool.not_eq_true _ ▸ hidle), if_pos hfits, State.withInbox, State.setSrcLen]
  · rw [if_neg (Bool.not_eq_true _ ▸ hidle), if_neg (Nat.not_lt.mpr hwide)]
    exact ⟨(s.withInbox ops).freeSrcLen, rfl, freeSrcLen_lt _, rfl⟩

end Sys2Proof.Machine
end

section
/-! PROOF. What a step of the core is, by the phase (44_pass_control.md R124), and everything each rule can do. -/

namespace Sys2Proof.Machine

/-! ## The rule of a phase -/

/-- The rule of the phase the core is in (R124): the core's own step, see `coreStep_eq_phaseRule`. -/
def phaseRule (s : State) : Result :=
  match s.phase with
  | .idle => .next s
  | .epCheck => epCheck s
  | .epHdr => epHdr s
  | .epScan => epScan s
  | .dpHdr => dpHdr s
  | .dpRun => dpRun s
  | .dpTail => dpTail s
  | .eaScan => eaScan s
  | .daField => daField s
  | .finish => finish s

/-- A command in a phase of its own is that phase's rule. -/
theorem exec_of_owner {i : Instr} {s : State} (h : s.phase.owner = some i) : exec i s = phaseRule s := by
  cases hp : s.phase <;> rw [hp] at h <;> cases h <;>
    simp only [exec, execEncPl, execEncArl, execDecPl, execDecArl, phaseRule, hp]

/-- Every command in `FINISH` is `FINISH` (R126). -/
theorem exec_of_finish {i : Instr} {s : State} (hi : i.place = .command) (hp : s.phase = .finish) :
    exec i s = finish s := by
  cases i with
  | encPl => exact execEncPl_finish s hp
  | encArl => exact execEncArl_finish s hp
  | decPl => exact execDecPl_finish s hp
  | decArl => exact execDecArl_finish s hp
  | plHdr | plRun | arlZ | arlO => cases hi

/-- A command in a phase of another is the ignored write of R122. -/
theorem exec_of_other {i j : Instr} {s : State} (hi : i.place = .command) (h : s.phase.owner = some j) (hij : i ≠ j) :
    exec i s = .next s := by
  cases i with
  | encPl => cases hp : s.phase <;> simp_all [Phase.owner, exec, execEncPl, ignoredCommand]
  | encArl => cases hp : s.phase <;> simp_all [Phase.owner, exec, execEncArl, ignoredCommand]
  | decPl => cases hp : s.phase <;> simp_all [Phase.owner, exec, execDecPl, ignoredCommand]
  | decArl => cases hp : s.phase <;> simp_all [Phase.owner, exec, execDecArl, ignoredCommand]
  | plHdr | plRun | arlZ | arlO => cases hi

@[simp] theorem place_commandOf (m : Mode) (st : Strategy) : (commandOf m st).place = .command := by
  cases m <;> cases st <;> rfl

/-- A core left to itself takes the step of its phase (R124): where a record is due, the command's rule is that record. -/
theorem coreStep_eq_phaseRule (s : State) : coreStep s = phaseRule s := by
  cases hp : s.phase with
  | idle => rw [coreStep_idle s hp, phaseRule, hp]
  | epCheck | epHdr | epScan | dpTail | eaScan =>
    rw [← exec_of_owner (i := _) (by rw [hp]; rfl)]
    exact coreStep_of_fetch s _ (by simp only [fetch, State.due, hp])
  | finish =>
    rw [phaseRule, hp, ← exec_of_finish (place_commandOf s.mode s.strategy) hp]
    exact coreStep_of_fetch s _ (by simp only [fetch, State.due, hp, State.command])
  | dpHdr =>
    rw [phaseRule, hp, dpHdr_eq]
    exact coreStep_of_fetch s _ (fetch_of_due s _ (by simp only [State.due, hp]))
  | dpRun =>
    cases he : s.isExh with
    | true =>
      rw [← exec_of_owner (i := .decPl) (by rw [hp]; rfl)]
      exact coreStep_of_fetch s _ (by simp [fetch, State.due, hp, he])
    | false =>
      rw [phaseRule, hp, dpRun_eq, he]
      exact coreStep_of_fetch s _ (fetch_of_due s .plRecord (by simp [State.due, hp, he]))
  | daField =>
    cases he : s.isExh with
    | true =>
      rw [← exec_of_owner (i := .decArl) (by rw [hp]; rfl)]
      exact coreStep_of_fetch s _ (by simp [fetch, State.due, hp, he])
    | false =>
      have hdue : s.due = some (if s.fv then .arlOne else .arlZero) := by simp [State.due, hp, he]
      rw [coreStep_of_fetch s _ (fetch_of_due s _ hdue), phaseRule, hp, daField_eq, he]
      cases s.fv <;> rfl

/-- A command during a pass: the rule of its phase, `FINISH`, or an ignored write. -/
theorem exec_command_cases {i : Instr} {s : State} (hi : i.place = .command) (hp : s.phase ≠ .idle) :
    (s.phase.owner = some i ∧ exec i s = phaseRule s) ∨ (s.phase = .finish ∧ exec i s = finish s) ∨
      (s.phase ≠ .finish ∧ exec i s = .next s) := by
  by_cases hf : s.phase = .finish
  · exact .inr (.inl ⟨hf, exec_of_finish hi hf⟩)
  · obtain ⟨j, hj⟩ : ∃ j, s.phase.owner = some j := by
      cases h : s.phase <;> simp_all [Phase.owner]
    by_cases hij : i = j
    · subst hij
      exact .inl ⟨hj, exec_of_owner hj⟩
    · exact .inr (.inr ⟨hf, exec_of_other hi hj hij⟩)

/-! ## Reading and writing -/

/-- At most `w` bits spell a number of `u<w>` (R9). -/
theorem val_lt_of_length_le (bs : List Bit) (w : Nat) (h : bs.length ≤ w) : val bs < 2 ^ w :=
  Nat.lt_of_lt_of_le (val_lt bs) (Nat.pow_le_pow_right (by decide) h)

/-- Everything an answered `WRUINT` of a legal width did (R77). -/
theorem wruint_eq_next {v w : Nat} {s t : State} (h1 : 1 ≤ w) (h2 : w ≤ 32) :
    wruint v w s = .next t ↔ s.fin = false ∧ v < 2 ^ w ∧ t = s.append (bits w v) := by
  rw [wruint_eq s v w h1 h2]
  cases s.fin
  · by_cases hv : v < 2 ^ w
    · simp [hv, Nat.not_le.mpr hv, eq_comm]
    · simp [hv, Nat.not_lt.mp hv]
  · simp

/-- What an answered `EMIT` appended (R11). -/
theorem emit_eq_next {b : Bit} {n : Nat} {s t : State} (h : emit b n s = .next t) :
    t = s.append (List.replicate n b) := by
  unfold emit at h
  split at h
  · cases h
  · cases h; rfl

/-- The fields of a run length are never none. -/
theorem escFields_ne_nil (n : Nat) : escFields n ≠ [] := by
  unfold escFields
  cases n with
  | zero => simp [escLoop]
  | succ n => unfold escLoop; split <;> simp

/-- Everything an answered `ESC` did (R85). -/
theorem esc_eq_next {n : Nat} {f : Bit} {s t : State} :
    esc n f s = .next t ↔ s.fin = false ∧ t = s.append ((escFields n).flatMap (bits Config.arlW)) := by
  cases hf : s.fin with
  | false => simp [esc_next n f s hf, eq_comm]
  | true =>
    obtain ⟨v, vs, hvs⟩ := List.exists_cons_of_ne_nil (escFields_ne_nil n)
    simp [esc, hvs, writeFields, wruint_eq s v Config.arlW (by decide) (by decide), hf]

/-- Everything an answered write of a `PL.RUN` record did (R94, R95). -/
theorem writeRunRecord_eq_next {s t : State} :
    writeRunRecord s = .next t ↔
      s.fin = false ∧ s.rl < 256 ∧ t = (s.append (encode (.plRun s.rs.toNat s.rl))).leaveRun := by
  unfold writeRunRecord encode
  have hrs : s.rs.toNat < 2 ^ Config.plStartW := s.rs.isLt
  simp only [andThen_eq_next, wruint_eq_next (w := Config.plStartW) (by decide) (by decide),
    wruint_eq_next (w := Config.plRunW) (by decide) (by decide), Host.Outcome.next.injEq]
  constructor
  · rintro ⟨_, ⟨hf, -, rfl⟩, _, ⟨-, hrl, rfl⟩, rfl⟩
    exact ⟨hf, hrl, by rw [append_append]; rfl⟩
  · rintro ⟨hf, hrl, rfl⟩
    exact ⟨_, ⟨hf, hrs, rfl⟩, _, ⟨hf, hrl, rfl⟩, by rw [append_append]; rfl⟩

/-! ## ENC.PL -/

/-- Everything `EP_CHECK` can do (R92). -/
theorem epCheck_eq_next {s t : State} :
    epCheck s = .next t ↔
      (65535 < s.srcLen ∧ t = s.raise .lengthOverflow) ∨ (s.srcLen ≤ 65535 ∧ t = s.goto .epHdr) := by
  unfold epCheck Config.plLenMax
  by_cases h : 65535 < s.srcLen
  · simp [h, Machine.raise, eq_comm]
  · simp [h, Nat.not_lt.mp h, eq_comm]

/-- Everything an answered `EP_HDR` did (R93). -/
theorem epHdr_eq_next {s t : State} :
    epHdr s = .next t ↔
      s.fin = false ∧ s.srcLen < 65536 ∧ t = (s.append (encode (.plHdr s.srcLen))).leaveRun.goto .epScan := by
  unfold epHdr encode
  simp only [andThen_eq_next, wruint_eq_next (w := Config.plLenW) (by decide) (by decide), Host.Outcome.next.injEq]
  constructor
  · rintro ⟨_, ⟨hf, hl, rfl⟩, rfl⟩
    exact ⟨hf, hl, rfl⟩
  · rintro ⟨hf, hl, rfl⟩
    exact ⟨_, ⟨hf, hl, rfl⟩, rfl⟩

/-- What a step in `EP_SCAN` does (R94 to R96): one case per place and per bit read there. -/
inductive EpScanStep (s : State) : State → Prop
  | endOutside (hend : s.rp = s.srcLen) (hout : s.inRun = false) : EpScanStep s (s.goto .finish)
  | endInside (hend : s.rp = s.srcLen) (hin : s.inRun = true) (hf : s.fin = false) (hrl : s.rl < 256) :
    EpScanStep s ((s.append (encode (.plRun s.rs.toNat s.rl))).leaveRun.goto .finish)
  | zeroOutside (hne : s.rp ≠ s.srcLen) (hbit : s.src[s.rp]? = some false) (hout : s.inRun = false) :
    EpScanStep s (s.advance 1)
  | zeroInside (hne : s.rp ≠ s.srcLen) (hbit : s.src[s.rp]? = some false) (hin : s.inRun = true) (hf : s.fin = false)
      (hrl : s.rl < 256) : EpScanStep s ((s.advance 1).append (encode (.plRun s.rs.toNat s.rl))).leaveRun
  | oneOutside (hne : s.rp ≠ s.srcLen) (hbit : s.src[s.rp]? = some true) (hout : s.inRun = false) :
    EpScanStep s (((s.advance 1).enterRun s.rp).setRl 1)
  | oneInside (hne : s.rp ≠ s.srcLen) (hbit : s.src[s.rp]? = some true) (hin : s.inRun = true) (hrl : s.rl ≠ 255) :
    EpScanStep s ((s.advance 1).setRl (s.rl + 1))
  | oneTooMany (hne : s.rp ≠ s.srcLen) (hbit : s.src[s.rp]? = some true) (hin : s.inRun = true) (hrl : s.rl = 255) :
    EpScanStep s ((s.advance 1).raise .runLengthOverflow)

theorem epScanEnd_cases {s t : State} (hend : s.rp = s.srcLen) (h : epScanEnd s = .next t) : EpScanStep s t := by
  unfold epScanEnd at h
  cases hin : s.inRun with
  | false =>
    simp only [hin, Bool.false_eq_true, if_false, andThen_next, Host.Outcome.next.injEq] at h
    exact h ▸ .endOutside hend hin
  | true =>
    simp only [hin, if_true, andThen_eq_next, writeRunRecord_eq_next, Host.Outcome.next.injEq] at h
    obtain ⟨_, ⟨hf, hrl, rfl⟩, rfl⟩ := h
    exact .endInside hend hin hf hrl

theorem epScanBit_cases {s t : State} {b : Bit} (hne : s.rp ≠ s.srcLen) (hbit : s.src[s.rp]? = some b)
    (h : epScanBit b (s.advance 1) = .next t) : EpScanStep s t := by
  unfold epScanBit countOne Config.plRunMax at h
  cases b <;> cases hin : s.inRun
  · simp [hin] at h
    exact h ▸ .zeroOutside hne hbit hin
  · simp [hin, writeRunRecord_eq_next] at h
    obtain ⟨hf, hrl, rfl⟩ := h
    exact .zeroInside hne hbit hin hf hrl
  · simp [hin] at h
    exact h ▸ .oneOutside hne hbit hin
  · by_cases hrl : s.rl = 255
    · simp [hin, hrl, Machine.raise] at h
      exact h ▸ .oneTooMany hne hbit hin hrl
    · simp [hin, hrl] at h
      exact h ▸ .oneInside hne hbit hin hrl

/-- Everything an answered step in `EP_SCAN` did. -/
theorem epScan_cases {s t : State} (h : epScan s = .next t) : EpScanStep s t := by
  unfold epScan at h
  split at h
  · exact epScanEnd_cases ((isExh_iff s).1 ‹_›) h
  · split at h
    next b u hb =>
      obtain ⟨hne, hbit, rfl⟩ := (rdbit_eq_some s u b).1 hb
      exact epScanBit_cases hne hbit h
    next => cases h

/-! ## DEC.PL -/

/-- Everything `PL.HDR` can do (R99). -/
theorem execPlHdr_eq_next {len : Nat} {s t : State} :
    execPlHdr len s = .next t ↔
      (s.srcLen - s.rp < 16 ∧ t = s.raise .truncatedStream) ∨
      (16 ≤ s.srcLen - s.rp ∧ t = ((s.advance 16).setTl len).goto .dpRun) := by
  unfold execPlHdr
  rw [readField_eq s _ _ (by decide) (by decide), Config.plLenW]
  by_cases h : s.srcLen - s.rp < 16
  · simp [h, eq_comm]
  · simp [h, Nat.not_lt.mp h, eq_comm]

/-- What `PL.RUN start, length` does (R100): its two truncations, its two checks, and the run. -/
inductive PlRunStep (start length : Nat) (s : State) : State → Prop
  | noStart (hleft : s.srcLen - s.rp < 16) : PlRunStep start length s (s.raise .truncatedStream)
  | noLength (hstart : 16 ≤ s.srcLen - s.rp) (hleft : s.srcLen - s.rp < 24) :
    PlRunStep start length s (((s.advance 16).setRs start).raise .truncatedStream)
  | corrupt (hleft : 24 ≤ s.srcLen - s.rp)
      (hcause : (BitVec.ofNat 16 start).toNat < s.wp ∨ s.tl.toNat < (BitVec.ofNat 16 start).toNat + length) :
    PlRunStep start length s ((((s.advance 24).setRs start).setRl length).raise .corruptStream)
  | run (hleft : 24 ≤ s.srcLen - s.rp) (hwp : s.wp ≤ (BitVec.ofNat 16 start).toNat)
      (htl : (BitVec.ofNat 16 start).toNat + length ≤ s.tl.toNat) :
    PlRunStep start length s ((((s.advance 24).setRs start).setRl length).append
      (List.replicate ((BitVec.ofNat 16 start).toNat - s.wp) false ++ List.replicate length true))

/-- Everything the two checks of a record and its emissions can do, once both fields are read. -/
theorem runRecordBody_cases {s t : State} (h : runRecordBody s = .next t) :
    ((s.rs.toNat < s.wp ∨ s.tl.toNat < s.rs.toNat + s.rl) ∧ t = s.raise .corruptStream) ∨
    (s.wp ≤ s.rs.toNat ∧ s.rs.toNat + s.rl ≤ s.tl.toNat ∧
      t = s.append (List.replicate (s.rs.toNat - s.wp) false ++ List.replicate s.rl true)) := by
  unfold runRecordBody at h
  split at h
  next hwp => cases h; exact .inl ⟨.inl hwp, rfl⟩
  next hwp =>
    split at h
    next htl => cases h; exact .inl ⟨.inr htl, rfl⟩
    next htl =>
      obtain ⟨u, hu, ht⟩ := (andThen_eq_next _ _ _).1 h
      obtain rfl := emit_eq_next hu
      obtain rfl := emit_eq_next ht
      exact .inr ⟨Nat.not_lt.mp hwp, Nat.not_lt.mp htl, append_append ..⟩

/-- Everything an answered `PL.RUN` did. -/
theorem execPlRun_cases {start length : Nat} {s t : State} (h : execPlRun start length s = .next t) :
    PlRunStep start length s t := by
  unfold execPlRun at h
  rw [readField_eq s _ _ (by decide) (by decide), Config.plStartW] at h
  split at h
  next hleft => cases h; exact .noStart hleft
  next hstart =>
    rw [readField_eq _ _ _ (by decide) (by decide), Config.plRunW] at h
    split at h <;> rename_i hleft <;>
      simp only [State.setRs_srcLen, State.advance_srcLen, State.setRs_rp, State.advance_rp] at hleft
    · cases h; exact .noLength (by omega) (by omega)
    · obtain ⟨hcause, rfl⟩ | ⟨hwp, htl, rfl⟩ := runRecordBody_cases h
      · exact .corrupt (by omega) hcause
      · exact .run (by omega) hwp htl

/-- Everything `DP_RUN` can do (R100, R101). -/
theorem dpRun_cases {s t : State} (h : dpRun s = .next t) :
    (s.rp = s.srcLen ∧ t = s.goto .dpTail) ∨
    ∃ start length, length < 256 ∧ PlRunStep start length s t := by
  unfold dpRun at h
  split at h
  next hend => cases h; exact .inl ⟨(isExh_iff s).1 hend, rfl⟩
  next =>
    exact .inr ⟨_, _, val_lt_of_length_le _ 8 (List.length_take_le ..), execPlRun_cases h⟩

/-- Everything an answered `DP_TAIL` did (R102). -/
theorem dpTail_eq {s t : State} (h : dpTail s = .next t) :
    t = (s.append (List.replicate (s.tl.toNat - s.wp) false)).goto .finish := by
  obtain ⟨u, hu, ht⟩ := (andThen_eq_next _ _ _).1 h
  obtain rfl := emit_eq_next hu
  cases ht; rfl

/-! ## ENC.ARL -/

/-- What a step in `EA_SCAN` does (R112, R113). -/
inductive EaScanStep (s : State) : State → Prop
  | endEmpty (hend : s.rp = s.srcLen) (hrl : s.rl = 0) : EaScanStep s (s.goto .finish)
  | endRun (hend : s.rp = s.srcLen) (hrl : 0 < s.rl) (hf : s.fin = false) :
    EaScanStep s ((s.append ((escFields s.rl).flatMap (bits Config.arlW))).goto .finish)
  | same (hne : s.rp ≠ s.srcLen) (hbit : s.src[s.rp]? = some s.fv) : EaScanStep s ((s.advance 1).setRl (s.rl + 1))
  | other (b : Bit) (hne : s.rp ≠ s.srcLen) (hbit : s.src[s.rp]? = some b) (hb : b ≠ s.fv) (hf : s.fin = false) :
    EaScanStep s ((((s.advance 1).append ((escFields s.rl).flatMap (bits Config.arlW))).setFv b).setRl 1)

theorem eaScanEnd_cases {s t : State} (hend : s.rp = s.srcLen) (h : eaScanEnd s = .next t) : EaScanStep s t := by
  unfold eaScanEnd at h
  obtain ⟨u, hu, ht⟩ := (andThen_eq_next _ _ _).1 h
  split at hu
  next hrl =>
    obtain ⟨hf, rfl⟩ := esc_eq_next.1 hu
    cases ht; exact .endRun hend hrl hf
  next hrl =>
    cases hu
    cases ht; exact .endEmpty hend (Nat.eq_zero_of_not_pos hrl)

theorem eaScanBit_cases {s t : State} {b : Bit} (hne : s.rp ≠ s.srcLen) (hbit : s.src[s.rp]? = some b)
    (h : eaScanBit b (s.advance 1) = .next t) : EaScanStep s t := by
  unfold eaScanBit at h
  split at h
  next hb => cases h; exact .same hne (hbit.trans (congrArg some hb))
  next hb =>
    obtain ⟨u, hu, ht⟩ := (andThen_eq_next _ _ _).1 h
    obtain ⟨hf, rfl⟩ := esc_eq_next.1 hu
    cases ht; exact .other b hne hbit hb hf

/-- Everything an answered step in `EA_SCAN` did. -/
theorem eaScan_cases {s t : State} (h : eaScan s = .next t) : EaScanStep s t := by
  unfold eaScan at h
  split at h
  next hend => exact eaScanEnd_cases ((isExh_iff s).1 hend) h
  next =>
    split at h
    next b u hb =>
      obtain ⟨hne, hbit, rfl⟩ := (rdbit_eq_some s u b).1 hb
      exact eaScanBit_cases hne hbit h
    next => cases h

/-! ## DEC.ARL -/

/-- Everything an answered field of value `n` did, met where the field value flag is `f` (R116). -/
theorem arlField_cases {f : Bit} {n : Nat} {s t : State} (h : arlField f n s = .next t) :
    (s.srcLen - s.rp < 8 ∧ t = s.raise .truncatedStream) ∨
    (8 ≤ s.srcLen - s.rp ∧ t = (((s.advance 8).setRl n).append (List.replicate n f)).setFv (!f)) := by
  unfold arlField at h
  rw [readField_eq s _ _ (by decide) (by decide), Config.arlW] at h
  split at h
  next hleft => cases h; exact .inl ⟨hleft, rfl⟩
  next hleft =>
    obtain ⟨u, hu, ht⟩ := (andThen_eq_next _ _ _).1 h
    obtain rfl := emit_eq_next hu
    cases ht; exact .inr ⟨Nat.not_lt.mp hleft, rfl⟩

/-- Everything `DA_FIELD` can do (R116, R117). -/
theorem daField_cases {s t : State} (h : daField s = .next t) :
    (s.rp = s.srcLen ∧ t = s.goto .finish) ∨ ∃ n, n < 256 ∧ arlField s.fv n s = .next t := by
  unfold daField at h
  split at h
  next hend => cases h; exact .inl ⟨(isExh_iff s).1 hend, rfl⟩
  next =>
    cases hf : s.fv
    · simp only [hf, Bool.false_eq_true, if_false] at h
      exact .inr ⟨_, val_lt_of_length_le _ 8 (List.length_take_le ..), h⟩
    · simp only [hf, if_true] at h
      exact .inr ⟨_, val_lt_of_length_le _ 8 (List.length_take_le ..), h⟩

end Sys2Proof.Machine
end

section
/-! PROOF. The frame of a step: what every rule of a pass leaves as it is, and in which direction it moves the rest
(10_state.md R14, R17, R19, R25, R26, R28). -/

namespace Sys2Proof.Machine

/-! ## Frames -/

/-- `t` is `s` further on in the same pass: same command and source, `RP` not moved back, `SNK` only appended to. -/
structure Forward (s t : State) : Prop where
  src : t.src = s.src
  srcLen : t.srcLen = s.srcLen
  srcb : t.srcb = s.srcb
  mode : t.mode = s.mode
  strategy : t.strategy = s.strategy
  rp : s.rp ≤ t.rp
  snk : s.snk <+: t.snk

/-- `Forward`, and the host's side and the model's own counts are as they were. -/
structure PassFrame (s t : State) : Prop extends Forward s t where
  inbox : t.inbox = s.inbox
  busData : t.busData = s.busData
  busBytes : t.busBytes = s.busBytes
  fresh : t.fresh = s.fresh
  wideWrites : t.wideWrites = s.wideWrites

/-- `PassFrame`, and the result is not closed: what every rule but `FINISH` does. -/
structure RuleFrame (s t : State) : Prop extends PassFrame s t where
  snkb : t.snkb = s.snkb
  fin : t.fin = s.fin
  done : t.done = s.done

/-- What an instruction leaves of the datapath registers and the flags during a pass, as `InstructionFrame` lists it. -/
def Leaves (i : Instr) (s t : State) : Prop :=
  match i with
  | .encPl => t.tl = s.tl ∧ t.fv = s.fv
  | .encArl => t.rs = s.rs ∧ t.tl = s.tl ∧ t.inRun = s.inRun
  | .decPl => t.inRun = s.inRun ∧ t.fv = s.fv
  | .decArl => t.rs = s.rs ∧ t.tl = s.tl ∧ t.inRun = s.inRun
  | .plHdr _ => t.rs = s.rs ∧ t.rl = s.rl ∧ t.inRun = s.inRun ∧ t.fv = s.fv ∧ t.snk = s.snk
  | .plRun _ _ => t.tl = s.tl ∧ t.inRun = s.inRun ∧ t.fv = s.fv
  | .arlZ _ => t.rs = s.rs ∧ t.tl = s.tl ∧ t.inRun = s.inRun
  | .arlO _ => t.rs = s.rs ∧ t.tl = s.tl ∧ t.inRun = s.inRun

variable {s t : State}

theorem Forward.command (f : Forward s t) : t.command = s.command := by
  rw [State.command, State.command, f.mode, f.strategy]

theorem RuleFrame.refl (s : State) : RuleFrame s s where
  src := rfl
  srcLen := rfl
  srcb := rfl
  mode := rfl
  strategy := rfl
  rp := Nat.le_refl _
  snk := List.prefix_refl _
  inbox := rfl
  busData := rfl
  busBytes := rfl
  fresh := rfl
  wideWrites := rfl
  snkb := rfl
  fin := rfl
  done := rfl

/-! Every update a rule is made of keeps the frame. -/

section

variable (f : RuleFrame s t)
include f

theorem RuleFrame.advance (n : Nat) : RuleFrame s (t.advance n) :=
  { f with rp := Nat.le_add_right_of_le f.rp }
theorem RuleFrame.append (bs : List Bit) : RuleFrame s (t.append bs) :=
  { f with snk := f.snk.trans (List.prefix_append ..) }
theorem RuleFrame.goto (p : Phase) : RuleFrame s (t.goto p) := { f with }
theorem RuleFrame.raise (e : ECode) : RuleFrame s (t.raise e) := { f with }
theorem RuleFrame.enterRun (start : Nat) : RuleFrame s (t.enterRun start) := { f with }
theorem RuleFrame.leaveRun : RuleFrame s t.leaveRun := { f with }
theorem RuleFrame.setFv (b : Bit) : RuleFrame s (t.setFv b) := { f with }
theorem RuleFrame.setRs (v : Nat) : RuleFrame s (t.setRs v) := { f with }
theorem RuleFrame.setRl (v : Nat) : RuleFrame s (t.setRl v) := { f with }
theorem RuleFrame.setTl (v : Nat) : RuleFrame s (t.setTl v) := { f with }

end

theorem leaves_refl (i : Instr) (s : State) : Leaves i s s := by
  cases i <;> simp only [Leaves, and_self]

/-! ## The rules, one by one -/

theorem finish_frame (h : finish s = .next t) (i : Instr) (hi : i.place = .command) :
    PassFrame s t ∧ Leaves i s t := by
  obtain ⟨-, rfl⟩ := (finish_eq_next s t).1 h
  refine ⟨{ RuleFrame.refl s with }, ?_⟩
  cases i with
  | encPl | encArl | decPl | decArl => simp [Leaves]
  | plHdr | plRun | arlZ | arlO => cases hi

theorem epCheck_frame (h : epCheck s = .next t) : RuleFrame s t ∧ Leaves .encPl s t := by
  obtain ⟨-, rfl⟩ | ⟨-, rfl⟩ := epCheck_eq_next.1 h
  · exact ⟨(RuleFrame.refl s).raise _, rfl, rfl⟩
  · exact ⟨(RuleFrame.refl s).goto _, rfl, rfl⟩

theorem epHdr_frame (h : epHdr s = .next t) : RuleFrame s t ∧ Leaves .encPl s t := by
  obtain ⟨-, -, rfl⟩ := epHdr_eq_next.1 h
  exact ⟨((RuleFrame.refl s).append _).leaveRun.goto _, rfl, rfl⟩

theorem EpScanStep.frame (h : EpScanStep s t) : RuleFrame s t ∧ Leaves .encPl s t := by
  have r := RuleFrame.refl s
  cases h with
  | endOutside => exact ⟨r.goto _, rfl, rfl⟩
  | endInside => exact ⟨(r.append _).leaveRun.goto _, rfl, rfl⟩
  | zeroOutside => exact ⟨r.advance 1, rfl, rfl⟩
  | zeroInside => exact ⟨((r.advance 1).append _).leaveRun, rfl, rfl⟩
  | oneOutside => exact ⟨((r.advance 1).enterRun _).setRl 1, rfl, rfl⟩
  | oneInside => exact ⟨(r.advance 1).setRl _, rfl, rfl⟩
  | oneTooMany => exact ⟨(r.advance 1).raise _, rfl, rfl⟩

theorem execPlHdr_frame {len : Nat} (h : execPlHdr len s = .next t) : RuleFrame s t ∧ Leaves (.plHdr len) s t := by
  obtain ⟨-, rfl⟩ | ⟨-, rfl⟩ := execPlHdr_eq_next.1 h
  · exact ⟨(RuleFrame.refl s).raise _, rfl, rfl, rfl, rfl, rfl⟩
  · exact ⟨(((RuleFrame.refl s).advance 16).setTl len).goto _, rfl, rfl, rfl, rfl, rfl⟩

theorem PlRunStep.frame {start length : Nat} (h : PlRunStep start length s t) :
    RuleFrame s t ∧ Leaves (.plRun start length) s t := by
  have r := RuleFrame.refl s
  cases h with
  | noStart => exact ⟨r.raise _, rfl, rfl, rfl⟩
  | noLength => exact ⟨((r.advance 16).setRs start).raise _, rfl, rfl, rfl⟩
  | corrupt => exact ⟨(((r.advance 24).setRs start).setRl length).raise _, rfl, rfl, rfl⟩
  | run => exact ⟨(((r.advance 24).setRs start).setRl length).append _, rfl, rfl, rfl⟩

theorem dpHdr_frame (h : dpHdr s = .next t) : RuleFrame s t ∧ Leaves .decPl s t := by
  obtain ⟨f, -, -, hin, hfv, -⟩ := execPlHdr_frame h
  exact ⟨f, hin, hfv⟩

theorem dpRun_frame (h : dpRun s = .next t) : RuleFrame s t ∧ Leaves .decPl s t := by
  obtain ⟨-, rfl⟩ | ⟨start, length, -, hrun⟩ := dpRun_cases h
  · exact ⟨(RuleFrame.refl s).goto _, rfl, rfl⟩
  · obtain ⟨f, -, hin, hfv⟩ := hrun.frame
    exact ⟨f, hin, hfv⟩

theorem dpTail_frame (h : dpTail s = .next t) : RuleFrame s t ∧ Leaves .decPl s t := by
  obtain rfl := dpTail_eq h
  exact ⟨((RuleFrame.refl s).append _).goto _, rfl, rfl⟩

theorem EaScanStep.frame (h : EaScanStep s t) : RuleFrame s t ∧ Leaves .encArl s t := by
  have r := RuleFrame.refl s
  cases h with
  | endEmpty => exact ⟨r.goto _, rfl, rfl, rfl⟩
  | endRun => exact ⟨(r.append _).goto _, rfl, rfl, rfl⟩
  | same => exact ⟨(r.advance 1).setRl _, rfl, rfl, rfl⟩
  | other b => exact ⟨(((r.advance 1).append _).setFv b).setRl 1, rfl, rfl, rfl⟩

theorem arlField_frame {f : Bit} {n : Nat} (h : arlField f n s = .next t) :
    RuleFrame s t ∧ t.rs = s.rs ∧ t.tl = s.tl ∧ t.inRun = s.inRun := by
  obtain ⟨-, rfl⟩ | ⟨-, rfl⟩ := arlField_cases h
  · exact ⟨(RuleFrame.refl s).raise _, rfl, rfl, rfl⟩
  · exact ⟨((((RuleFrame.refl s).advance 8).setRl n).append _).setFv _, rfl, rfl, rfl⟩

theorem daField_frame (h : daField s = .next t) : RuleFrame s t ∧ Leaves .decArl s t := by
  obtain ⟨-, rfl⟩ | ⟨n, -, hn⟩ := daField_cases h
  · exact ⟨(RuleFrame.refl s).goto _, rfl, rfl, rfl⟩
  · exact arlField_frame hn

/-! ## The rule of a phase, and every instruction -/

/-- The rule of a phase that a command owns. -/
theorem phaseRule_frame {i : Instr} (ho : s.phase.owner = some i) (h : phaseRule s = .next t) :
    RuleFrame s t ∧ Leaves i s t := by
  unfold phaseRule at h
  cases hp : s.phase <;> rw [hp] at ho h <;> cases ho
  case epCheck => exact epCheck_frame h
  case epHdr => exact epHdr_frame h
  case epScan => exact (epScan_cases h).frame
  case dpHdr => exact dpHdr_frame h
  case dpRun => exact dpRun_frame h
  case dpTail => exact dpTail_frame h
  case eaScan => exact (eaScan_cases h).frame
  case daField => exact daField_frame h

/-- The core's own step, in any phase. -/
theorem coreStep_frame (h : coreStep s = .next t) : PassFrame s t := by
  rw [coreStep_eq_phaseRule] at h
  cases ho : s.phase.owner with
  | some i => exact (phaseRule_frame ho h).1.toPassFrame
  | none =>
    have hp : s.phase = .idle ∨ s.phase = .finish := by cases hp : s.phase <;> simp_all [Phase.owner]
    obtain hp | hp := hp <;> rw [phaseRule, hp] at h
    · cases h; exact (RuleFrame.refl s).toPassFrame
    · exact (finish_frame h .encPl rfl).1

/-- A command during a pass: it closes the result only in `FINISH`. -/
theorem exec_command_frame {i : Instr} (hi : i.place = .command) (hp : s.phase ≠ .idle) (h : exec i s = .next t) :
    PassFrame s t ∧ (s.phase ≠ .finish → RuleFrame s t) ∧ Leaves i s t := by
  obtain ⟨ho, he⟩ | ⟨hf, he⟩ | ⟨hf, he⟩ := exec_command_cases hi hp <;> rw [he] at h
  · obtain ⟨f, hl⟩ := phaseRule_frame ho h
    exact ⟨f.toPassFrame, fun _ => f, hl⟩
  · obtain ⟨f, hl⟩ := finish_frame h i hi
    exact ⟨f, fun hne => absurd hf hne, hl⟩
  · cases h
    exact ⟨(RuleFrame.refl s).toPassFrame, fun _ => RuleFrame.refl s, leaves_refl i s⟩

/-- A record, whatever the phase it is run in. -/
theorem exec_record_frame {i : Instr} (hi : i.place ≠ .command) (h : exec i s = .next t) :
    RuleFrame s t ∧ Leaves i s t := by
  cases i with
  | encPl | encArl | decPl | decArl => exact absurd rfl hi
  | plHdr len => exact execPlHdr_frame h
  | plRun start length => exact (execPlRun_cases h).frame
  | arlZ z => exact arlField_frame h
  | arlO o => exact arlField_frame h

/-- Every instruction during a pass. -/
theorem exec_frame {i : Instr} (hp : s.phase ≠ .idle) (h : exec i s = .next t) :
    PassFrame s t ∧ (s.phase ≠ .finish ∨ i.place ≠ .command → RuleFrame s t) ∧ Leaves i s t := by
  by_cases hi : i.place = .command
  · obtain ⟨f, hr, hl⟩ := exec_command_frame hi hp h
    exact ⟨f, fun hc => hr (hc.resolve_right (absurd hi)), hl⟩
  · obtain ⟨f, hl⟩ := exec_record_frame hi h
    exact ⟨f.toPassFrame, fun _ => f, hl⟩

/-! ## A step of a busy machine -/

/-- A host write during a pass is ignored, whatever its register (R22, R28, R122). -/
theorem writeReg_of_busy {reg v : Nat} (hb : s.busy = true) : writeReg reg v s = .next s := by
  unfold writeReg
  split
  · simp only [writeCtrl, hb, if_true]
  · simp only [writeSrcLen, hb, if_true]
  · rfl

/-- A host operation during a pass, but reset. -/
theorem hostStep_forward {op : HostOp} (hb : s.busy = true) (hop : op ≠ .reset) (h : hostStep op s = .next t) :
    Forward s t := by
  cases op with
  | yield => exact (coreStep_frame h).toForward
  | write reg v =>
    rw [hostStep, writeReg_of_busy hb] at h
    cases h; exact (RuleFrame.refl s).toForward
  | read reg => cases h; constructor <;> simp
  | supply bytes => simp [hostStep, supply, hb] at h
  | collect => cases h; constructor <;> simp
  | reset => exact absurd rfl hop

theorem step_forward (hb : s.busy = true) (hop : s.inbox.head? ≠ some .reset) (h : step s = .next t) :
    Forward s t := by
  cases hi : s.inbox with
  | nil =>
    rw [step_of_no_op s hi] at h
    exact (coreStep_frame h).toForward
  | cons op rest =>
    rw [step_of_op s op rest hi] at h
    have hne : op ≠ .reset := by simpa [hi] using hop
    have f := hostStep_forward (by rw [busy_withInbox]; exact hb) hne h
    exact { f with }

/-! ## The obligations -/

/-- Settles O20: the phase is another command's, so the write is ignored. -/
theorem otherCommandIgnored : Obligations.OtherCommandIgnored :=
  fun _ _ _ hi h hij => exec_of_other hi h hij

/-- Settles O32: every command in `FINISH` is `FINISH`, which seals the sink and completes the pass. -/
theorem finishCompletes : Obligations.FinishCompletes := by
  intro s i hi hp hf
  rw [exec_of_finish hi hp]
  exact (finish_eq_next s _).2 ⟨hf, rfl⟩

/-- Settles O39: the core's step and every host operation but reset go forward. -/
theorem forwardOnly : Obligations.ForwardOnly := by
  intro s t hb hop h
  have f := step_forward hb hop h
  exact ⟨f.src, f.srcLen, f.srcb, f.command, f.rp, f.snk⟩

/-- Settles O40: a command runs the rule of its phase, `FINISH` or nothing, and each rule has its frame. -/
theorem instructionFrame : Obligations.InstructionFrame := by
  intro i s t hp h
  obtain ⟨f, hr, hl⟩ := exec_frame hp h
  exact ⟨⟨f.src, f.srcLen, f.srcb, f.mode, f.strategy, f.inbox, f.busData, f.busBytes, f.fresh, f.wideWrites⟩,
    fun hc => ⟨(hr hc).snkb, (hr hc).fin, (hr hc).done⟩, hl⟩

end Sys2Proof.Machine
end

section
/-! PROOF. The invariant (10_state.md R33 and the rules named at the fields of `Inv`): it holds at reset, and every step
of the core and of the host keeps it. -/

namespace Sys2Proof.Machine

variable {s t : State}

/-! ## Register widths -/

/-- The sink bound of 20_memory.md R40 for a source of `n` bits. -/
def sinkBound (n : Nat) : Nat := max 786448 (32 * n)

/-- A sink within the bound fits `SNK_LEN` (R18). -/
theorem sinkBound_lt {n : Nat} (h : n ≤ Config.srcLenMax) : sinkBound n < 2 ^ Config.snkLenW := by
  rw [two_pow_snkLenW]
  have h1 := le_srcLenMax
  have h2 := srcLenMax_lt_two_pow_lenW
  unfold sinkBound
  omega

theorem lt_two_pow_lenW {n : Nat} (h : n ≤ Config.srcLenMax) : n < 2 ^ Config.lenW :=
  Nat.lt_of_le_of_lt h srcLenMax_lt_two_pow_lenW

/-! ## The invariant of an idle machine -/

/-- In `IDLE` most of the invariant says nothing. -/
theorem inv_of_idle (hp : s.phase = .idle) (hlen : s.srcLen < 2 ^ Config.lenW) (hrp : s.rp < 2 ^ Config.lenW)
    (hwp : s.wp < 2 ^ Config.snkLenW) (hrl : s.rl < 2 ^ Config.lenW) (hfin : s.fin = true → s.snkb = pack s.snk)
    (hdone : s.done = true → s.fin = true ∧ (s.ecode = .none → s.rp = s.src.length)) : Inv s := by
  constructor
  case srcLen_fits => exact hlen
  case rp_fits => exact hrp
  case wp_fits => exact hwp
  case rl_fits => exact hrl
  case fin_packed => exact hfin
  case done_closed => exact fun h => ⟨hp, (hdone h).1⟩
  case success_read =>
    rintro (h | h | h) he
    · simp [hp] at h
    · simp [hp] at h
    · exact (hdone h).2 he
  all_goals simp [hp, Phase.owner, Phase.opening, Phase.atRecord]

/-- What the invariant says of an idle machine whose last pass is over. -/
theorem Inv.done_read (h : Inv s) (hd : s.done = true) : s.fin = true ∧ (s.ecode = .none → s.rp = s.src.length) :=
  ⟨(h.done_closed hd).2, h.success_read (.inr (.inr hd))⟩

/-- At reset, and after a reset in any state: the host's own side and the counts do not matter. -/
theorem inv_hardReset (s : State) : Inv (hardReset s) :=
  inv_of_idle rfl (Nat.two_pow_pos _) (Nat.two_pow_pos _) (Nat.two_pow_pos _) (Nat.two_pow_pos _)
    (fun h => nomatch h) (fun h => nomatch h)

/-! ## The invariant of a running pass -/

/-- What the invariant says in one phase of a pass, beside what it says in all of them. -/
def PhaseInv (p : Phase) (s : State) : Prop :=
  match p with
  | .idle => True
  | .epCheck => s.rp = 0 ∧ s.snk = []
  | .epHdr => s.rp = 0 ∧ s.snk = [] ∧ s.srcLen ≤ 65535
  | .epScan => s.srcLen ≤ 65535 ∧ (s.inRun = true → 1 ≤ s.rl ∧ s.rl ≤ 255 ∧ s.rs.toNat + s.rl = s.rp) ∧
      s.wp + 24 * s.inRun.toNat ≤ 16 + 24 * ((s.rp + s.inRun.toNat) / 2)
  | .dpHdr => s.rp = 0 ∧ s.snk = []
  | .dpRun => s.wp ≤ s.tl.toNat ∧ (s.srcLen % 8 = 0 → s.rp % 8 = 0)
  | .dpTail => s.wp ≤ s.tl.toNat ∧ s.rp = s.srcLen
  | .eaScan => s.rl ≤ s.rp ∧ (s.rl = 0 → s.rp = 0) ∧ s.wp + 8 * s.rl ≤ 8 * (s.rp + 1) ∧ (s.rl = 0 → s.snk = [])
  | .daField => s.wp ≤ 255 * (s.rp / 8) ∧ (s.srcLen % 8 = 0 → s.rp % 8 = 0)
  | .finish => s.wp < 2 ^ Config.snkLenW ∧ (s.ecode = .none → s.rp = s.srcLen)

/-- A pass in phase `p`: the invariant, laid out for the phase (`Running.inv`, `Inv.running`). -/
structure Running (p : Phase) (s : State) : Prop where
  phase : s.phase = p
  not_done : s.done = false
  not_fin : s.fin = false
  src_length : s.src.length = s.srcLen
  srcLen_le : s.srcLen ≤ Config.srcLenMax
  rp_le : s.rp ≤ s.srcLen
  rl_fits : s.rl < 2 ^ Config.lenW
  command : ∀ i, p.owner = some i → s.command = i
  no_error : p ≠ .finish → s.ecode = .none
  at_phase : PhaseInv p s

/-- The sink of a running pass fits `SNK_LEN` in every phase (R18, 20_memory.md R40). -/
theorem Running.wp_fits {p : Phase} (r : Running p s) (hp : p ≠ .idle) : s.wp < 2 ^ Config.snkLenW := by
  have hb := sinkBound_lt r.srcLen_le
  have hrp := r.rp_le
  have htl : s.tl.toNat < 65536 := s.tl.isLt
  have hph := r.at_phase
  unfold sinkBound at hb
  cases p with
  | idle => exact absurd rfl hp
  | epCheck | dpHdr =>
    have hwp : s.wp = 0 := by rw [State.wp, hph.2]; rfl
    omega
  | epHdr =>
    have hwp : s.wp = 0 := by rw [State.wp, hph.2.1]; rfl
    omega
  | epScan =>
    obtain ⟨hl, -, hwp⟩ := hph
    have hin := Bool.toNat_le s.inRun
    omega
  | dpRun | dpTail =>
    obtain ⟨hwp, -⟩ := hph
    omega
  | eaScan =>
    obtain ⟨hrl, hrp0, hwp, hsnk⟩ := hph
    omega
  | daField =>
    obtain ⟨hwp, -⟩ := hph
    omega
  | finish => exact hph.1

/-- The invariant from its layout. -/
theorem Running.inv {p : Phase} (r : Running p s) (hp : p ≠ .idle) : Inv s := by
  obtain ⟨rfl, hdone, hfin, hsrc, hlen, hrp, hrl, hcmd, herr, hph⟩ := id r
  have at_ (q : Phase) (h : s.phase = q) : PhaseInv q s := h ▸ hph
  constructor
  case srcLen_fits => exact lt_two_pow_lenW hlen
  case rp_fits => exact lt_two_pow_lenW (hrp.trans hlen)
  case wp_fits => exact r.wp_fits hp
  case rl_fits => exact hrl
  case fin_packed => simp [hfin]
  case done_closed => simp [hdone]
  case busy_open => exact fun _ => ⟨hdone, hfin⟩
  case busy_source => exact fun _ => ⟨hsrc, (srcLenAllowed_iff _).2 hlen⟩
  case busy_rp => exact fun _ => hrp
  case error_finishes => exact fun _ he => by_contra fun hf => he (herr hf)
  case owner_command => exact hcmd
  case opening_empty =>
    intro h
    cases hq : s.phase <;> rw [hq] at h <;> cases h
    case epCheck => exact at_ _ hq
    case epHdr => obtain ⟨hrp0, hsnk, -⟩ := at_ _ hq; exact ⟨hrp0, hsnk⟩
    case dpHdr => exact at_ _ hq
  case plHdr_fits =>
    rintro (hq | hq)
    · exact (at_ _ hq).2.2
    · exact (at_ _ hq).1
  case plRun_counts => exact fun hq => (at_ _ hq).2.1
  case arl_counts => intro hq; obtain ⟨h1, h2, -⟩ := at_ _ hq; exact ⟨h1, h2⟩
  case plSink_bounded => exact fun hq => (at_ _ hq).2.2
  case arlSink_bounded => exact fun hq => (at_ _ hq).2.2
  case arlOut_bounded => exact fun hq => (at_ _ hq).1
  case plOut_bounded =>
    rintro (hq | hq)
    · exact (at_ _ hq).1
    · exact (at_ _ hq).1
  case record_aligned =>
    intro h
    cases hq : s.phase <;> rw [hq] at h <;> cases h
    case dpHdr => obtain ⟨hrp0, -⟩ := at_ _ hq; simp [hrp0]
    case dpRun => exact (at_ _ hq).2
    case daField => exact (at_ _ hq).2
  case success_read =>
    rw [hsrc]
    rintro (hq | hq | hd) he
    · exact (at_ _ hq).2
    · exact (at_ _ hq).2 he
    · simp [hdone] at hd

/-- The layout from the invariant. -/
theorem Inv.running (h : Inv s) {p : Phase} (hp : s.phase = p) (hb : p ≠ .idle) : Running p s := by
  subst hp
  have hbusy : s.busy = true := (busy_iff s).2 hb
  obtain ⟨hdone, hfin⟩ := h.busy_open hbusy
  obtain ⟨hsrc, hlen⟩ := h.busy_source hbusy
  refine ⟨rfl, hdone, hfin, hsrc, (srcLenAllowed_iff _).1 hlen, h.busy_rp hbusy, h.rl_fits, h.owner_command,
    fun hf => by_contra fun he => hf (h.error_finishes hbusy he), ?_⟩
  cases hq : s.phase with
  | idle => exact absurd hq hb
  | epCheck | dpHdr => exact h.opening_empty (by rw [hq]; rfl)
  | epHdr =>
    obtain ⟨hrp, hsnk⟩ := h.opening_empty (by rw [hq]; rfl)
    exact ⟨hrp, hsnk, h.plHdr_fits (.inl hq)⟩
  | epScan => exact ⟨h.plHdr_fits (.inr hq), h.plRun_counts hq, h.plSink_bounded hq⟩
  | dpRun => exact ⟨h.plOut_bounded (.inl hq), h.record_aligned (by rw [hq]; rfl)⟩
  | dpTail =>
    have he : s.ecode = .none := by_contra fun he => nomatch hq.symm.trans (h.error_finishes hbusy he)
    exact ⟨h.plOut_bounded (.inr hq), hsrc ▸ h.success_read (.inl hq) he⟩
  | eaScan =>
    obtain ⟨h1, h2⟩ := h.arl_counts hq
    exact ⟨h1, h2, h.arlSink_bounded hq⟩
  | daField => exact ⟨h.arlOut_bounded hq, h.record_aligned (by rw [hq]; rfl)⟩
  | finish => exact ⟨h.wp_fits, fun he => hsrc ▸ h.success_read (.inr (.inl hq)) he⟩

/-! ## The two ways a rule goes on -/

/-- A rule that stays in its command's phases: what is left to show is `RP`, `x[RL]` and the phase's own clauses. -/
theorem Running.move {p : Phase} (r : Running p s) (f : RuleFrame s t) (q : Phase) (hq : t.phase = q)
    (ho : q.owner = p.owner) (he : p ≠ .finish ∧ t.ecode = s.ecode) (hrp : t.rp ≤ s.srcLen)
    (hrl : t.rl < 2 ^ Config.lenW) (hph : PhaseInv q t) : Running q t where
  phase := hq
  not_done := f.done.trans r.not_done
  not_fin := f.fin.trans r.not_fin
  src_length := by rw [f.src, f.srcLen]; exact r.src_length
  srcLen_le := f.srcLen ▸ r.srcLen_le
  rp_le := f.srcLen.symm ▸ hrp
  rl_fits := hrl
  command := fun i hi => f.command.trans (r.command i (ho ▸ hi))
  no_error := fun _ => he.2.trans (r.no_error he.1)
  at_phase := hph

/-- A rule that ends in `FINISH`, with or without an error: the source is read, or there is an error. -/
theorem Running.close {p : Phase} (r : Running p s) (f : RuleFrame s t) (hq : t.phase = .finish)
    (hrp : t.rp ≤ s.srcLen) (hrl : t.rl < 2 ^ Config.lenW) (hwp : t.wp < 2 ^ Config.snkLenW)
    (hread : t.ecode = .none → t.rp = s.srcLen) : Running .finish t where
  phase := hq
  not_done := f.done.trans r.not_done
  not_fin := f.fin.trans r.not_fin
  src_length := by rw [f.src, f.srcLen]; exact r.src_length
  srcLen_le := f.srcLen ▸ r.srcLen_le
  rp_le := f.srcLen.symm ▸ hrp
  rl_fits := hrl
  command := fun _ hi => nomatch hi
  no_error := fun h => absurd rfl h
  at_phase := ⟨hwp, f.srcLen.symm ▸ hread⟩

end Sys2Proof.Machine
end

section
/-! PROOF. Every rule of a pass keeps the invariant, and so does every step. -/

namespace Sys2Proof.Machine

variable {s t : State}

/-- A read of `n` bits that are left keeps `RP` within the source (R33 a). -/
theorem rp_add_le {n : Nat} (hrp : s.rp ≤ s.srcLen) (h : n ≤ s.srcLen - s.rp) : s.rp + n ≤ s.srcLen := by
  omega

/-! ## ENC.PL -/

theorem epCheck_keeps_inv (r : Running .epCheck s) (h : epCheck s = .next t) : Inv t := by
  obtain ⟨f, -⟩ := epCheck_frame h
  obtain ⟨-, rfl⟩ | ⟨hlen, rfl⟩ := epCheck_eq_next.1 h
  · exact (r.close f rfl r.rp_le r.rl_fits (r.wp_fits (by decide)) nofun).inv (by decide)
  · obtain ⟨hrp, hsnk⟩ := r.at_phase
    exact (r.move f .epHdr rfl rfl ⟨by decide, rfl⟩ r.rp_le r.rl_fits ⟨hrp, hsnk, hlen⟩).inv (by decide)

theorem epHdr_keeps_inv (r : Running .epHdr s) (h : epHdr s = .next t) : Inv t := by
  obtain ⟨f, -⟩ := epHdr_frame h
  obtain ⟨-, -, rfl⟩ := epHdr_eq_next.1 h
  obtain ⟨-, hsnk, hlen⟩ := r.at_phase
  have hph : PhaseInv .epScan ((s.append (encode (.plHdr s.srcLen))).leaveRun.goto .epScan) :=
    ⟨hlen, nofun, by simp [State.wp, hsnk, encode, Config.plLenW]⟩
  exact (r.move f .epScan rfl rfl ⟨by decide, rfl⟩ r.rp_le r.rl_fits hph).inv (by decide)

/-- A run record has 24 bits (30_encoding.md R59). -/
theorem length_encode_plRun (start length : Nat) : (encode (.plRun start length)).length = 24 :=
  Laws.EncodeWidth.plRun start length

theorem epScan_keeps_inv (r : Running .epScan s) (h : EpScanStep s t) : Inv t := by
  obtain ⟨f, -⟩ := h.frame
  obtain ⟨hlen, hrun, hwp⟩ := r.at_phase
  have hrp := r.rp_le
  have hmax := le_srcLenMax
  have hrl {n : Nat} (hn : n ≤ 256) : n < 2 ^ Config.lenW := lt_two_pow_lenW (by omega)
  cases h with
  | endOutside hend hout =>
    exact (r.close f rfl hrp r.rl_fits (r.wp_fits (by decide)) fun _ => hend).inv (by decide)
  | endInside hend hin hf hl =>
    have hb := sinkBound_lt r.srcLen_le
    refine (r.close f rfl hrp r.rl_fits ?_ fun _ => hend).inv (by decide)
    simp [State.wp, length_encode_plRun, hin, sinkBound] at hwp hb ⊢
    omega
  | zeroOutside hne hbit hout =>
    have hadv := Nat.lt_of_le_of_ne hrp hne
    refine (r.move f .epScan r.phase rfl ⟨by decide, rfl⟩ hadv r.rl_fits ⟨hlen, ?_, ?_⟩).inv (by decide)
    · simp [hout]
    · simp [State.wp, hout] at hwp ⊢; omega
  | zeroInside hne hbit hin hf hl =>
    have hadv := Nat.lt_of_le_of_ne hrp hne
    refine (r.move f .epScan r.phase rfl ⟨by decide, rfl⟩ hadv r.rl_fits ⟨hlen, nofun, ?_⟩).inv (by decide)
    simp [State.wp, length_encode_plRun, hin] at hwp ⊢; omega
  | oneOutside hne hbit hout =>
    have hadv := Nat.lt_of_le_of_ne hrp hne
    refine (r.move f .epScan r.phase rfl ⟨by decide, rfl⟩ hadv (hrl (n := 1) (by decide))
      ⟨hlen, ?_, ?_⟩).inv (by decide)
    · simp; omega
    · simp [State.wp, hout] at hwp ⊢; omega
  | oneInside hne hbit hin h255 =>
    have hadv := Nat.lt_of_le_of_ne hrp hne
    obtain ⟨h1, h2, h3⟩ := hrun hin
    refine (r.move f .epScan r.phase rfl ⟨by decide, rfl⟩ hadv (hrl (Nat.succ_le_succ h2))
      ⟨hlen, ?_, ?_⟩).inv (by decide)
    · simp; omega
    · simp [State.wp, hin] at hwp ⊢; omega
  | oneTooMany hne hbit hin h255 =>
    have hadv := Nat.lt_of_le_of_ne hrp hne
    exact (r.close f rfl hadv r.rl_fits (r.wp_fits (by decide)) nofun).inv (by decide)

/-! ## DEC.PL -/

theorem dpHdr_keeps_inv (r : Running .dpHdr s) (h : dpHdr s = .next t) : Inv t := by
  obtain ⟨f, -⟩ := dpHdr_frame h
  obtain ⟨hrp, hsnk⟩ := r.at_phase
  obtain ⟨-, rfl⟩ | ⟨hleft, rfl⟩ := execPlHdr_eq_next.1 h
  · exact (r.close f rfl r.rp_le r.rl_fits (r.wp_fits (by decide)) nofun).inv (by decide)
  · refine (r.move f .dpRun rfl rfl ⟨by decide, rfl⟩ (rp_add_le r.rp_le hleft) r.rl_fits ⟨?_, ?_⟩).inv (by decide)
    · simp [State.wp, hsnk]
    · simp [hrp]

theorem plRun_keeps_inv {start length : Nat} (r : Running .dpRun s) (hl : length < 256)
    (h : PlRunStep start length s t) : Inv t := by
  obtain ⟨f, -⟩ := h.frame
  obtain ⟨hwp, halign⟩ := r.at_phase
  have hrp := r.rp_le
  have hmax := le_srcLenMax
  have hrl : length < 2 ^ Config.lenW := lt_two_pow_lenW (by omega)
  cases h with
  | noStart hleft => exact (r.close f rfl hrp r.rl_fits (r.wp_fits (by decide)) nofun).inv (by decide)
  | noLength hstart hleft =>
    exact (r.close f rfl (rp_add_le hrp hstart) r.rl_fits (r.wp_fits (by decide)) nofun).inv (by decide)
  | corrupt hleft hcause =>
    exact (r.close f rfl (rp_add_le hrp hleft) hrl (r.wp_fits (by decide)) nofun).inv (by decide)
  | run hleft hstart htl =>
    refine (r.move f .dpRun r.phase rfl ⟨by decide, rfl⟩ (rp_add_le hrp hleft) hrl ⟨?_, ?_⟩).inv (by decide)
    · simp [State.wp] at hstart htl ⊢; omega
    · simp; omega

theorem dpRun_keeps_inv (r : Running .dpRun s) (h : dpRun s = .next t) : Inv t := by
  obtain ⟨f, -⟩ := dpRun_frame h
  obtain ⟨hend, rfl⟩ | ⟨start, length, hl, hrun⟩ := dpRun_cases h
  · exact (r.move f .dpTail rfl rfl ⟨by decide, rfl⟩ r.rp_le r.rl_fits ⟨r.at_phase.1, hend⟩).inv (by decide)
  · exact plRun_keeps_inv r hl hrun

theorem dpTail_keeps_inv (r : Running .dpTail s) (h : dpTail s = .next t) : Inv t := by
  obtain ⟨f, -⟩ := dpTail_frame h
  obtain rfl := dpTail_eq h
  obtain ⟨hwp, hend⟩ := r.at_phase
  have hb := sinkBound_lt r.srcLen_le
  have htl : s.tl.toNat < 65536 := s.tl.isLt
  refine (r.close f rfl r.rp_le r.rl_fits ?_ fun _ => hend).inv (by decide)
  simp [State.wp, sinkBound] at hwp hb ⊢
  omega

/-! ## ENC.ARL -/

/-- A run that is not empty takes at most one field per bit (41_escape_chain.md R86). -/
theorem length_escLoop_le (turns n : Nat) (h : 1 ≤ n) : (escLoop turns n).length ≤ n := by
  induction turns generalizing n with
  | zero => simpa [escLoop] using h
  | succ turns ih =>
    unfold escLoop Config.cap
    split
    next hn =>
      have := ih (n - 255) (by omega)
      simp only [List.length_cons]
      omega
    next => simpa using h

theorem length_escFields_le (n : Nat) (h : 1 ≤ n) : (escFields n).length ≤ n := length_escLoop_le n n h

/-- The bits of a list of strategy B fields. -/
@[simp] theorem length_flatMap_bits (vs : List Nat) (w : Nat) : (vs.flatMap (bits w)).length = w * vs.length := by
  simp [List.length_flatMap, Nat.mul_comm]

theorem eaScan_keeps_inv (r : Running .eaScan s) (h : EaScanStep s t) : Inv t := by
  obtain ⟨f, -⟩ := h.frame
  obtain ⟨hrl, hrp0, hwp, hsnk0⟩ := r.at_phase
  have hrp := r.rp_le
  have hmax := r.srcLen_le
  have hle := le_srcLenMax
  have hesc : 1 ≤ s.rl → (escFields s.rl).length ≤ s.rl := length_escFields_le s.rl
  have hb := sinkBound_lt hmax
  cases h with
  | endEmpty hend h0 => exact (r.close f rfl hrp r.rl_fits (r.wp_fits (by decide)) fun _ => hend).inv (by decide)
  | endRun hend h0 hf =>
    refine (r.close f rfl hrp r.rl_fits ?_ fun _ => hend).inv (by decide)
    simp [State.wp, sinkBound, Config.arlW] at hwp hb ⊢
    omega
  | same hne hbit =>
    have hadv := Nat.lt_of_le_of_ne hrp hne
    refine (r.move f .eaScan r.phase rfl ⟨by decide, rfl⟩ hadv (lt_two_pow_lenW ?_)
      ⟨Nat.succ_le_succ hrl, nofun, ?_, nofun⟩).inv (by decide)
    · simp; omega
    · simp [State.wp] at hwp ⊢; omega
  | other b hne hbit hb' hf =>
    have hadv := Nat.lt_of_le_of_ne hrp hne
    refine (r.move f .eaScan r.phase rfl ⟨by decide, rfl⟩ hadv (lt_two_pow_lenW (n := 1) (by omega))
      ⟨Nat.succ_le_succ (Nat.zero_le _), nofun, ?_, nofun⟩).inv (by decide)
    by_cases h0 : s.rl = 0
    · simp [State.wp, Config.arlW, h0, hrp0 h0, hsnk0 h0, escFields, escLoop]
    · simp [State.wp, Config.arlW] at hwp ⊢; omega

/-! ## DEC.ARL -/

theorem daField_keeps_inv (r : Running .daField s) (h : daField s = .next t) : Inv t := by
  obtain ⟨f, -⟩ := daField_frame h
  obtain ⟨hwp, halign⟩ := r.at_phase
  have hmax := le_srcLenMax
  obtain ⟨hend, rfl⟩ | ⟨n, hn, hfield⟩ := daField_cases h
  · exact (r.close f rfl r.rp_le r.rl_fits (r.wp_fits (by decide)) fun _ => hend).inv (by decide)
  · obtain ⟨-, rfl⟩ | ⟨hleft, rfl⟩ := arlField_cases hfield
    · exact (r.close f rfl r.rp_le r.rl_fits (r.wp_fits (by decide)) nofun).inv (by decide)
    · refine (r.move f .daField r.phase rfl ⟨by decide, rfl⟩ (rp_add_le r.rp_le hleft)
        (lt_two_pow_lenW (n := n) (by omega)) ⟨?_, ?_⟩).inv (by decide)
      · simp [State.wp] at hwp ⊢; omega
      · simp; omega

/-! ## Completion and start -/

theorem finish_keeps_inv (r : Running .finish s) (h : finish s = .next t) : Inv t := by
  obtain ⟨-, rfl⟩ := (finish_eq_next s t).1 h
  obtain ⟨hwp, hread⟩ := r.at_phase
  exact inv_of_idle rfl (lt_two_pow_lenW r.srcLen_le) (lt_two_pow_lenW (r.rp_le.trans r.srcLen_le)) hwp r.rl_fits
    (fun _ => rfl) fun _ => ⟨rfl, fun he => (hread he).trans r.src_length.symm⟩

/-- `START` of a command in `IDLE` (R122, R123): the first phase is one that the command owns. -/
theorem exec_command_of_idle {i : Instr} (hi : i.place = .command) (hp : s.phase = .idle) :
    ∃ m st p, exec i s = startPass m st p s ∧ commandOf m st = i ∧ p.owner = some i ∧
      p ∈ [Phase.epCheck, .eaScan, .dpHdr, .daField] := by
  cases i with
  | encPl => exact ⟨_, _, _, execEncPl_idle s hp, rfl, rfl, by decide⟩
  | encArl => exact ⟨_, _, _, execEncArl_idle s hp, rfl, rfl, by decide⟩
  | decPl => exact ⟨_, _, _, execDecPl_idle s hp, rfl, rfl, by decide⟩
  | decArl => exact ⟨_, _, _, execDecArl_idle s hp, rfl, rfl, by decide⟩
  | plHdr | plRun | arlZ | arlO => cases hi

/-- A pass that begins meets the invariant, whatever the state before it. -/
theorem begin_running {m : Mode} {st : Strategy} {p : Phase} (hlen : s.srcLen ≤ Config.srcLenMax)
    (ho : p.owner = some (commandOf m st)) (hp : p ∈ [Phase.epCheck, .eaScan, .dpHdr, .daField]) :
    Running p (s.begin m st p) where
  phase := rfl
  not_done := rfl
  not_fin := rfl
  src_length := length_boundSource s
  srcLen_le := hlen
  rp_le := Nat.zero_le _
  rl_fits := Nat.two_pow_pos _
  command := fun _ hi => Option.some.inj (ho.symm.trans hi)
  no_error := fun _ => rfl
  at_phase := by
    fin_cases hp
    · exact ⟨rfl, rfl⟩
    · exact ⟨Nat.le_refl _, fun _ => rfl, by simp [State.wp], fun _ => rfl⟩
    · exact ⟨rfl, rfl⟩
    · exact ⟨by simp [State.wp], fun _ => rfl⟩

theorem start_keeps_inv {i : Instr} (hi : i.place = .command) (hp : s.phase = .idle) (h : exec i s = .next t) :
    Inv t := by
  obtain ⟨m, st, p, he, rfl, ho, hfirst⟩ := exec_command_of_idle hi hp
  obtain ⟨hlen, rfl⟩ := (startPass_eq_next m st p s t).1 (he ▸ h)
  exact (begin_running hlen ho hfirst).inv fun h0 => by rw [h0] at ho; cases ho

/-! ## The step -/

theorem phaseRule_keeps_inv (hs : Inv s) (h : phaseRule s = .next t) : Inv t := by
  unfold phaseRule at h
  cases hp : s.phase <;> rw [hp] at h
  case idle => cases h; exact hs
  case epCheck => exact epCheck_keeps_inv (hs.running hp (by decide)) h
  case epHdr => exact epHdr_keeps_inv (hs.running hp (by decide)) h
  case epScan => exact epScan_keeps_inv (hs.running hp (by decide)) (epScan_cases h)
  case dpHdr => exact dpHdr_keeps_inv (hs.running hp (by decide)) h
  case dpRun => exact dpRun_keeps_inv (hs.running hp (by decide)) h
  case dpTail => exact dpTail_keeps_inv (hs.running hp (by decide)) h
  case eaScan => exact eaScan_keeps_inv (hs.running hp (by decide)) (eaScan_cases h)
  case daField => exact daField_keeps_inv (hs.running hp (by decide)) h
  case finish => exact finish_keeps_inv (hs.running hp (by decide)) h

theorem coreStep_keeps_inv (hs : Inv s) (h : coreStep s = .next t) : Inv t :=
  phaseRule_keeps_inv hs (coreStep_eq_phaseRule s ▸ h)

@[simp] theorem place_ctrlCommand (data : Nat) : (ctrlCommand data).place = .command := place_commandOf _ _

theorem writeCtrl_keeps_inv {data : Nat} (hs : Inv s) (h : writeCtrl data s = .next t) : Inv t := by
  unfold writeCtrl at h
  split at h
  · cases h; exact hs
  next hb =>
    have hp : s.phase = .idle := (busy_eq_false_iff s).1 (Bool.eq_false_iff.mpr hb)
    split at h
    · exact start_keeps_inv (place_ctrlCommand data) hp h
    · cases h
      exact inv_of_idle hp hs.srcLen_fits hs.rp_fits hs.wp_fits hs.rl_fits hs.fin_packed hs.done_read

theorem writeSrcLen_keeps_inv {v : Nat} (hs : Inv s) (h : writeSrcLen v s = .next t) : Inv t := by
  rw [writeSrcLen_eq] at h
  split at h
  · cases h; exact hs
  next hb =>
    have hp : s.phase = .idle := (busy_eq_false_iff s).1 (Bool.eq_false_iff.mpr hb)
    split at h
    next hv =>
      cases h
      exact inv_of_idle hp hv hs.rp_fits hs.wp_fits hs.rl_fits hs.fin_packed hs.done_read
    next =>
      cases h
      exact inv_of_idle hp (freeSrcLen_lt s) hs.rp_fits hs.wp_fits hs.rl_fits hs.fin_packed hs.done_read

theorem writeReg_keeps_inv {reg v : Nat} (hs : Inv s) (h : writeReg reg v s = .next t) : Inv t := by
  unfold writeReg at h
  split at h
  · exact writeCtrl_keeps_inv hs h
  · exact writeSrcLen_keeps_inv hs h
  · cases h; exact hs

/-- Everything an answered supply of `SRCB` did (R156, R161). -/
theorem supply_eq_next {bytes : List Byte} : supply bytes s = .next t ↔ s.busy = false ∧ t = s.setSrcb bytes := by
  unfold supply
  cases s.busy <;> simp [eq_comm]

/-- What the invariant speaks of is the core's: a read, a collection and the bytes supplied do not matter to it. -/
theorem hostStep_keeps_inv {op : HostOp} (hs : Inv s) (h : hostStep op s = .next t) : Inv t := by
  cases op with
  | yield => exact coreStep_keeps_inv hs h
  | write reg v => exact writeReg_keeps_inv hs h
  | read reg => cases h; exact { hs with }
  | supply bytes =>
    obtain ⟨-, rfl⟩ := supply_eq_next.1 h
    exact { hs with }
  | collect => cases h; exact { hs with }
  | reset => cases h; exact inv_hardReset s

theorem step_keeps_inv (hs : Inv s) (h : step s = .next t) : Inv t := by
  cases hi : s.inbox with
  | nil => exact coreStep_keeps_inv hs (step_of_no_op s hi ▸ h)
  | cons op rest =>
    have hr : Inv (s.withInbox rest) := { hs with }
    exact hostStep_keeps_inv hr (step_of_op s op rest hi ▸ h)

/-! ## The obligations -/

/-- Settles O36: reset is the reset of an idle machine. -/
theorem invAtReset : Obligations.InvAtReset := inv_hardReset State.reset

/-- Settles O37: the core's step by the rule of its phase, the host's by what it writes. -/
theorem stepKeepsInv : Obligations.StepKeepsInv := fun _ _ hs h => step_keeps_inv hs h

end Sys2Proof.Machine
end

section
/-! PROOF. The host port: the fields of `CTRL` and `STATUS`, reads, ignored writes and reset (10_state.md R22 to R24, R32,
44_pass_control.md R129), and the source a pass starts with (R123). -/

namespace Sys2Proof.Machine

variable {s t : State}

/-! ## The fields of `STATUS` and `CTRL` -/

/-- Different exceptions have different codes (60_exceptions.md R134). -/
@[simp] theorem code_inj {a b : ECode} : a.code = b.code ↔ a = b := by
  cases a <;> cases b <;> decide

theorem code_le (e : ECode) : e.code ≤ 4 := by
  cases e <;> decide

theorem testBit_of_div_mod {w k : Nat} {d : Bool} (h : w / 2 ^ k % 2 = d.toNat) : w.testBit k = d := by
  rw [Nat.testBit_eq_decide_div_mod_eq, h]
  cases d <;> rfl

/-- `STATUS` is three flags below the code, which starts at bit 4 (R24). -/
theorem statusWord_fields (s : State) :
    s.statusWord.testBit 0 = s.busy ∧ s.statusWord.testBit 1 = s.done ∧ s.statusWord.testBit 2 = s.err ∧
      s.statusWord.testBit 3 = false ∧ s.statusWord / 16 = s.ecode.code := by
  have ha := Bool.toNat_le s.busy
  have hb := Bool.toNat_le s.done
  have hc := Bool.toNat_le s.err
  unfold State.statusWord
  exact ⟨testBit_of_div_mod (by omega), testBit_of_div_mod (by omega), testBit_of_div_mod (by omega),
    testBit_of_div_mod (by simp; omega), by omega⟩

/-- Settles O13: the flags are read back from their bits, and the codes are told apart. -/
theorem statusFields : Obligations.StatusFields := by
  intro s
  obtain ⟨hbusy, hdone, herr, hzero, hcode⟩ := statusWord_fields s
  rw [hbusy, hdone, herr, hzero, hcode]
  exact ⟨busy_iff s, rfl, err_iff s, rfl, rfl, code_inj (b := .none), code_inj (b := .lengthOverflow),
    code_inj (b := .runLengthOverflow), code_inj (b := .truncatedStream), code_inj (b := .corruptStream),
    code_le _, code_le _, code_inj (b := .none)⟩

/-- Settles O14: the two selections of a command are the bits 1 and 2 of `CTRL`. -/
theorem ctrlFields : Obligations.CtrlFields := by
  intro s
  unfold State.ctrlWord State.command
  cases s.mode <;> cases s.strategy <;> decide

/-! ## Reads and ignored writes -/

/-- A read is a step that changes the host's latch and the count of free values only (R129). -/
theorem step_read {reg : Nat} {ops : List HostOp} (h : s.inbox = .read reg :: ops) :
    step s = .next (readReg reg (s.withInbox ops)) :=
  step_of_op s _ ops h

theorem step_collect {ops : List HostOp} (h : s.inbox = .collect :: ops) :
    step s = .next (collect (s.withInbox ops)) :=
  step_of_op s _ ops h

theorem srcPosRead_of_readable (h : s.readable = true) : s.srcPosRead = s.rp := if_pos h

theorem snkLenRead_of_readable (h : s.readable = true) : s.snkLenRead = s.snk.length := if_pos h

theorem snkbRead_of_readable (h : s.readable = true) : s.snkbRead = s.snkb := if_pos h

/-- With no pass running and none failed, the result registers mean something (R127). -/
theorem readable_withInbox {ops : List HostOp} (hb : s.busy = false) (he : s.ecode = .none) :
    (s.withInbox ops).readable = true :=
  (readable_iff _).2 ⟨(busy_eq_false_iff s).1 hb, he⟩

/-- A register number above 4 reads 0 (R22). -/
theorem regRead_of_unknown {reg : Nat} (h : 4 < reg) : s.regRead reg = 0 := by
  unfold State.regRead
  split <;> omega

/-- A write to a register that is not `CTRL` or `SRC_LEN` is ignored (R22). -/
theorem writeReg_of_other {reg v : Nat} (h0 : reg ≠ 0) (h2 : reg ≠ 2) : writeReg reg v s = .next s := by
  unfold writeReg
  split
  · exact absurd rfl h0
  · exact absurd rfl h2
  · rfl

/-- Settles O10: neither the write nor the read finds a register. -/
theorem otherRegisters : Obligations.OtherRegisters := by
  intro s reg v ops
  refine ⟨fun h h0 h2 => ?_, fun h hreg => ?_⟩
  · exact (step_of_op s _ ops h).trans (writeReg_of_other h0 h2)
  · exact ⟨_, step_read h, regRead_of_unknown hreg, rfl⟩

/-- Settles O11: a read answers the register, or the sink's bytes, in the host's latch. -/
theorem hostReads : Obligations.HostReads := by
  intro s reg ops
  refine ⟨fun h => ⟨_, step_read h, rfl, ?_, ?_, ?_, fun hb he => ⟨?_, ?_⟩⟩,
    fun h => ⟨_, step_collect h, rfl, fun hb he => ?_⟩⟩
  · rintro rfl; rfl
  · rintro rfl; rfl
  · rintro rfl; rfl
  · rintro rfl; exact srcPosRead_of_readable (readable_withInbox hb he)
  · rintro rfl; exact snkLenRead_of_readable (readable_withInbox hb he)
  · exact snkbRead_of_readable (readable_withInbox hb he)

/-! ## Reset -/

/-- A reset puts the core at its reset values, whatever it was doing (R153, R155). -/
theorem afterReset_hardReset (s : State) : AfterReset (hardReset s) :=
  ⟨rfl, rfl, rfl, rfl, rfl, rfl, rfl, rfl, rfl, rfl, rfl, rfl, rfl, rfl, rfl, rfl⟩

/-- Settles O16: the step is the reset itself. -/
theorem reset : Obligations.Reset :=
  ⟨afterReset_hardReset State.reset, fun s ops h =>
    ⟨_, step_of_op s _ ops h, afterReset_hardReset _, rfl⟩⟩

/-! ## The source of a pass -/

/-- The bound source agrees with the host's bytes as far as both reach (R123, log entry 7). -/
theorem take_boundSource (s : State) : s.boundSource.take (8 * s.srcb.length) = (unpackAll s.srcb).take s.srcLen := by
  by_cases h : s.srcLen ≤ 8 * s.srcb.length
  · rw [boundSource_of_supplied s h, unpack, List.take_take, min_eq_right h]
  · have hl : (unpack s.srcb s.srcLen).length = 8 * s.srcb.length := by
      rw [length_unpack]; omega
    rw [State.boundSource, ← hl, List.take_left, unpack]

/-- Settles O19: every command binds the source there is. -/
theorem startWithAnyBytes : Obligations.StartWithAnyBytes := by
  intro s i hi hp hlen
  obtain ⟨m, st, p, he, -⟩ := exec_command_of_idle hi hp
  exact ⟨s.begin m st p, he.trans ((startPass_eq_next m st p s _).2 ⟨hlen, rfl⟩), length_boundSource s,
    take_boundSource s⟩

end Sys2Proof.Machine
end

section
/-! PROOF. How many bits the four operations give (20_memory.md R40, R41, 10_state.md R18). -/

namespace Sys2Proof.Machine

/-! ## Cutting a run off a list -/

section

variable {p q : Bool → Bool} (b : List Bool)

theorem length_takeWhile_add_dropWhile : (b.takeWhile p).length + (b.dropWhile p).length = b.length := by
  rw [← List.length_append, List.takeWhile_append_dropWhile]

/-- What is left after a run starts with the other bit, if anything is left, so the next run takes at least one bit. -/
theorem length_dropWhile_dropWhile_le (hpq : ∀ c, p c = false → q c = true) :
    ((b.dropWhile p).dropWhile q).length ≤ (b.dropWhile p).length - 1 := by
  cases hd : b.dropWhile p with
  | nil => simp
  | cons c r =>
    have hc := List.head_dropWhile_not p (l := b) (by simp [hd])
    simp only [hd, List.head_cons] at hc
    rw [List.dropWhile_cons_of_pos (hpq c hc)]
    exact List.length_dropWhile_le ..

end

/-! ## ENC.PL -/

/-- Two runs of `1`s have a `0` between them (42_position_length.md R105). -/
theorem length_runs1From_le (turns at_ : Nat) (b : List Bit) :
    (runs1From turns at_ b).length ≤ ((b.dropWhile (· == false)).length + 1) / 2 := by
  induction turns generalizing at_ b with
  | zero => exact Nat.zero_le _
  | succ turns ih =>
    simp only [runs1From]
    split
    · exact Nat.zero_le _
    next hne =>
      have hone := length_dropWhile_dropWhile_le (p := (· == false)) (q := (· == true)) b (by simp)
      have hzero :=
        length_dropWhile_dropWhile_le (p := (· == true)) (q := (· == false)) (b.dropWhile (· == false)) (by simp)
      have hpos := List.length_pos_iff.mpr hne
      have hrest := ih (at_ + (b.takeWhile (· == false)).length +
        ((b.dropWhile (· == false)).takeWhile (· == true)).length) ((b.dropWhile (· == false)).dropWhile (· == true))
      rw [List.length_cons]
      unfold Bit at * -- so that `omega` meets each length in one spelling
      omega

theorem length_runs1_le (b : List Bit) : (runs1 b).length ≤ (b.length + 1) / 2 := by
  have h := length_runs1From_le (b.length + 1) 0 b
  have hd : (b.dropWhile (· == false)).length ≤ b.length := List.length_dropWhile_le ..
  unfold runs1
  omega

theorem length_runRecordBits (r : Nat × Nat) : (runRecordBits r).length = 24 := by
  simp [runRecordBits, Config.plStartW, Config.plRunW]

/-- A successful `EncPL` writes a header and its records, of a payload that its header can state. -/
theorem encPL_eq_ok {b t : List Bit} (h : encPL b = .ok t) :
    b.length ≤ 65535 ∧ t = bits 16 b.length ++ (runs1 b).flatMap runRecordBits := by
  unfold encPL Config.plLenMax at h
  split at h
  · cases h
  next hlen =>
    split at h
    · cases h
    · cases h; exact ⟨Nat.not_lt.mp hlen, rfl⟩

theorem length_encPL {b t : List Bit} (h : encPL b = .ok t) :
    t.length = 16 + 24 * (runs1 b).length ∧ t.length ≤ 16 + 24 * ((b.length + 1) / 2) ∧ t.length ≤ 786448 := by
  obtain ⟨hlen, rfl⟩ := encPL_eq_ok h
  have hruns := length_runs1_le b
  have ht : (bits 16 b.length ++ (runs1 b).flatMap runRecordBits).length = 16 + 24 * (runs1 b).length := by
    rw [List.length_append, length_bits, List.length_flatMap]
    simp [length_runRecordBits, Nat.mul_comm]
  exact ⟨ht, by omega, by omega⟩

/-! ## DEC.PL -/

/-- Everything a successful reading of the records did: the tail, or one legal record and the rest (R105). -/
theorem decPLFrom_eq_ok {turns len : Nat} {s out t : List Bit} (h : decPLFrom turns len s out = .ok t) :
    t = out ++ List.replicate (len - out.length) false ∨
    ∃ n start length, turns = n + 1 ∧ out.length ≤ start ∧ start + length ≤ len ∧
      decPLFrom n len (s.drop 24) (out ++ List.replicate (start - out.length) false ++ List.replicate length true)
        = .ok t := by
  unfold decPLFrom at h
  split at h
  · cases h; exact .inl rfl
  · split at h
    · cases h
    · dsimp only at h
      split at h
      · cases h
      next hstart =>
        split at h
        · cases h
        next hlen =>
          cases turns with
          | zero => cases h
          | succ n => exact .inr ⟨n, _, _, rfl, Nat.not_lt.mp hstart, Nat.not_lt.mp hlen, h⟩

/-- The records of a strategy A stream never take the output past the stated length (42_position_length.md R102). -/
theorem length_decPLFrom {turns len : Nat} {s out t : List Bit} (hout : out.length ≤ len)
    (h : decPLFrom turns len s out = .ok t) : t.length = len := by
  induction turns generalizing s out with
  | zero =>
    obtain rfl | ⟨n, _, _, hn, -⟩ := decPLFrom_eq_ok h
    · simp; omega
    · cases hn
  | succ turns ih =>
    obtain rfl | ⟨n, start, length, hn, hstart, hlen, hrest⟩ := decPLFrom_eq_ok h
    · simp; omega
    · cases hn
      exact ih (by simp; omega) hrest

theorem length_decPL_le {s t : List Bit} (h : decPL s = .ok t) : t.length ≤ 65535 := by
  unfold decPL at h
  split at h
  · cases h
  · have hv : val (s.take 16) < 2 ^ 16 := val_lt_of_length_le _ 16 (List.length_take_le ..)
    rw [length_decPLFrom (Nat.zero_le _) h]
    omega

/-! ## ENC.ARL -/

/-- The escape chain of a run: one field if it is empty, else at most one per bit (41_escape_chain.md R86). -/
theorem length_escFields_le_max (n : Nat) : (escFields n).length ≤ max 1 n := by
  cases n with
  | zero => decide
  | succ n => exact (length_escFields_le _ (Nat.succ_pos n)).trans (Nat.le_max_right ..)

/-- One field per bit at most, and one more when the first run is empty. -/
theorem length_arlFields_altRunsFrom_le (turns : Nat) (v : Bit) (b : List Bit) :
    (arlFields (altRunsFrom turns v b)).length ≤
      max (min 1 b.length) (b.takeWhile (· == v)).length + (b.dropWhile (· == v)).length := by
  induction turns generalizing v b with
  | zero => exact Nat.zero_le _
  | succ turns ih =>
    unfold altRunsFrom
    split
    · exact Nat.zero_le _
    next hne =>
      have hb := List.length_pos_iff.mpr hne
      have hfirst := length_escFields_le_max (b.takeWhile (· == v)).length
      have hcut := length_takeWhile_add_dropWhile (p := (· == !v)) (b.dropWhile (· == v))
      have hpos := length_dropWhile_dropWhile_le (p := (· == v)) (q := (· == !v)) b (by simp)
      have hrest := ih (!v) (b.dropWhile (· == v))
      simp only [arlFields, List.flatMap_cons, List.length_append] at hrest ⊢
      unfold Bit at *
      omega

theorem length_encARL (b : List Bit) : (encARL b).length = 8 * (arlFields (altRuns b)).length :=
  length_flatMap_bits _ _

theorem length_encARL_le (b : List Bit) : (encARL b).length ≤ 8 * (b.length + 1) := by
  have h := length_arlFields_altRunsFrom_le (b.length + 1) Config.firstRun b
  have hcut := length_takeWhile_add_dropWhile (p := (· == Config.firstRun)) b
  rw [length_encARL, altRuns]
  unfold Bit at *
  omega

/-! ## DEC.ARL -/

/-- Everything a successful reading of the fields did: nothing left, or one whole field and the rest (R120). -/
theorem decARLFrom_eq_ok {turns : Nat} {fv : Bit} {s out t : List Bit} (h : decARLFrom turns fv s out = .ok t) :
    t = out ∨ ∃ n v, turns = n + 1 ∧ 8 ≤ s.length ∧ v ≤ 255 ∧
      decARLFrom n (!fv) (s.drop 8) (out ++ List.replicate v fv) = .ok t := by
  unfold decARLFrom at h
  split at h
  · cases h; exact .inl rfl
  · split at h
    · cases h
    next hlen =>
      cases turns with
      | zero => cases h
      | succ n =>
        have hv : val (s.take 8) < 2 ^ 8 := val_lt_of_length_le _ 8 (List.length_take_le ..)
        exact .inr ⟨n, _, rfl, Nat.not_lt.mp hlen, Nat.le_of_lt_succ hv, h⟩

/-- A field gives at most 255 bits. -/
theorem length_decARLFrom_le {turns : Nat} {fv : Bit} {s out t : List Bit} (h : decARLFrom turns fv s out = .ok t) :
    t.length ≤ out.length + 255 * (s.length / 8) := by
  induction turns generalizing fv s out with
  | zero =>
    obtain rfl | ⟨n, _, hn, -⟩ := decARLFrom_eq_ok h
    · omega
    · cases hn
  | succ turns ih =>
    obtain rfl | ⟨n, v, hn, hlen, hv, hrest⟩ := decARLFrom_eq_ok h
    · omega
    · cases hn
      have := ih hrest
      rw [List.length_append, List.length_replicate, List.length_drop] at this
      omega

theorem length_decARL_le {s t : List Bit} (h : decARL s = .ok t) : t.length ≤ 255 * (s.length / 8) := by
  have := length_decARLFrom_le h
  rwa [List.length_nil, Nat.zero_add] at this

/-! ## The obligation -/

/-- Settles O60: each bound by the recursion of its function; the common bound is above all four. -/
theorem sinkBounds : Obligations.SinkBounds := by
  refine ⟨fun _ _ h => length_encPL h, fun _ _ h => length_decPL_le h, ⟨rfl, fun b => ⟨?_, length_encARL_le b⟩⟩,
    fun _ _ h => length_decARL_le h, fun b hb => ⟨fun t h => ?_, fun t h => ?_, ?_, fun t h => ?_, sinkBound_lt hb⟩⟩
  · rw [length_encARL, Nat.mul_mod_right]
  · obtain ⟨-, -, hle⟩ := length_encPL h
    omega
  · have := length_decPL_le h
    omega
  · have := length_encARL_le b
    omega
  · have := length_decARL_le h
    omega

end Sys2Proof.Machine
end

section
/-! PROOF. Decoding by the number of bits there are (30_encoding.md R56, R68), and the words written out from the layouts
(20_memory.md R37, 30_encoding.md R55, R58 to R61). -/

namespace Sys2Proof

variable {p : Place} {s : List Bit} {bytes : List Byte}

/-- A complete word decodes to its fields, and the bits behind it are left over (R56). -/
theorem decode_append (h : s.length = p.width) (rest : List Bit) :
    decode p (s ++ rest) = .ok (decodeFields p s, rest) := by
  have hcomplete : ¬ (s ++ rest).length < p.width := by rw [List.length_append]; omega
  rw [decode, if_neg hcomplete, List.take_left' h, List.drop_left' h]

theorem decode_word (h : s.length = p.width) : decode p s = .ok (decodeFields p s, []) := by
  simpa using decode_append h []

/-- An incomplete word is rejected by its name (R68). -/
theorem decode_of_short (h : s.length < p.width) : decode p s = .error p.reject := if_pos h

theorem decodeBytes_word (h : 8 * bytes.length = p.width) :
    decodeBytes p bytes = .ok (decodeFields p (unpackAll bytes), []) :=
  decode_word ((length_unpackAll bytes).trans h)

theorem decodeBytes_of_short (h : 8 * bytes.length < p.width) : decodeBytes p bytes = .error p.reject :=
  decode_of_short ((length_unpackAll bytes).trans_lt h)

/-- Settles O3: each word is as wide as its place, so it decodes to its fields, whose values are computed; one byte is
shorter than a header. -/
theorem writtenWordsDecode : Obligations.WrittenWordsDecode := by
  unfold Obligations.WrittenWordsDecode
  refine ⟨?encPl, ?encArl, ?decPl, ?decArl, ?header, ?run, ?zeroField, ?oneField, ?halfHeader⟩
  case encPl | encArl | decPl | decArl => exact decode_word rfl
  case header | run | zeroField | oneField => exact decodeBytes_word rfl
  case halfHeader => exact decodeBytes_of_short (by decide)

end Sys2Proof
end

section
/-! PROOF. The decoder and the encoder undo each other (30_encoding.md R55 to R62, R68, R72). -/

namespace Sys2Proof

/-! ## Decoding what the encoder wrote -/

/-- `Laws.EncodeWidth` for every instruction (30_encoding.md R53). -/
theorem length_encode (i : Instr) : (encode i).length = i.place.width := by
  cases i with
  | encPl => exact Laws.EncodeWidth.encPl
  | encArl => exact Laws.EncodeWidth.encArl
  | decPl => exact Laws.EncodeWidth.decPl
  | decArl => exact Laws.EncodeWidth.decArl
  | plHdr len => exact Laws.EncodeWidth.plHdr len
  | plRun start length => exact Laws.EncodeWidth.plRun start length
  | arlZ z => exact Laws.EncodeWidth.arlZ z
  | arlO o => exact Laws.EncodeWidth.arlO o

@[simp] theorem inField_iff (w v : Nat) : inField w v = true ↔ v < 2 ^ w := decide_eq_true_iff

/-- A field that is wholly read is the number it was written from (R62). -/
theorem val_take_bits {w v : Nat} (h : inField w v = true) (rest : List Bit) : val ((bits w v ++ rest).take w) = v := by
  rw [List.take_left' (length_bits w v), val_bits w v ((inField_iff w v).mp h)]

theorem val_take_bits_self {w v : Nat} (h : inField w v = true) : val ((bits w v).take w) = v := by
  simpa using val_take_bits h []

/-- The fields of an encoding are those of the instruction: its `val` undoes each `bits` (R55, R58 to R61). -/
theorem decodeFields_encode {i : Instr} (h : i.wellFormed = true) : decodeFields i.place (encode i) = i := by
  cases i with
  | encPl | encArl | decPl | decArl => rfl
  | plHdr len => exact congrArg Instr.plHdr (val_take_bits_self h)
  | arlZ z => exact congrArg Instr.arlZ (val_take_bits_self h)
  | arlO o => exact congrArg Instr.arlO (val_take_bits_self h)
  | plRun start length =>
    obtain ⟨hstart, hlength⟩ := Bool.and_eq_true_iff.mp h
    refine congrArg₂ Instr.plRun (val_take_bits hstart _) ?_
    rw [encode, List.drop_left' (length_bits _ _), val_take_bits_self hlength]

/-- Settles O1: an encoding has the width of its place, so it is the word that is cut off, and its fields are the
instruction's. -/
theorem decodeOfEncode : Obligations.DecodeOfEncode := by
  unfold Obligations.DecodeOfEncode
  intro i rest hwf
  rw [decode_append (length_encode i), decodeFields_encode hwf]

/-! ## Encoding what the decoder read -/

@[simp] theorem place_decodeFields (p : Place) (s : List Bit) : (decodeFields p s).place = p := by
  cases p with
  | command => exact Machine.place_commandOf _ _
  | plHeader | plRecord | arlZero | arlOne => rfl

/-- A field read from at most `w` bits is in `u<w>` (R62). -/
theorem inField_val_take (w : Nat) (s : List Bit) : inField w (val (s.take w)) = true :=
  (inField_iff ..).mpr (Machine.val_lt_of_length_le _ _ (List.length_take_le ..))

/-- Whatever the bits are, the fields read from them fit (R56). -/
theorem wellFormed_decodeFields (p : Place) (s : List Bit) : (decodeFields p s).wellFormed = true := by
  cases p with
  | command =>
    unfold decodeFields
    cases modeOfBit _ <;> cases strategyOfBit _ <;> rfl
  | plHeader | arlZero | arlOne => exact inField_val_take _ s
  | plRecord => exact Bool.and_eq_true_iff.mpr ⟨inField_val_take _ s, inField_val_take _ _⟩

/-- The command table is `CMD = MODE ++ STRATEGY` (R55). -/
theorem encode_command (m st : Bit) : encode (commandOf (modeOfBit m) (strategyOfBit st)) = [m, st] := by
  cases m <;> cases st <;> rfl

/-- A field of the whole word writes the word back (R62). -/
theorem bits_val_take {w : Nat} {s : List Bit} (h : s.length = w) : bits w (val (s.take w)) = s := by
  subst h
  rw [List.take_length, bits_val]

/-- A complete word is the encoding of its own fields, so that none of its bits is lost (R56). -/
theorem encode_decodeFields {p : Place} {s : List Bit} (h : s.length = p.width) : encode (decodeFields p s) = s := by
  cases p with
  | command =>
    obtain ⟨m, st, rfl⟩ := List.length_eq_two.mp h
    exact encode_command m st
  | plHeader | arlZero | arlOne => exact bits_val_take h
  | plRecord =>
    have hstart : (s.take Config.plStartW).length = Config.plStartW := by
      rw [List.length_take, h]; rfl
    have hlength : (s.drop Config.plStartW).length = Config.plRunW := by
      rw [List.length_drop, h]; rfl
    calc encode (decodeFields .plRecord s)
        = bits Config.plStartW (val ((s.take Config.plStartW).take Config.plStartW)) ++
          bits Config.plRunW (val ((s.drop Config.plStartW).take Config.plRunW)) := by
            rw [List.take_take, Nat.min_self]; rfl
      _ = s.take Config.plStartW ++ s.drop Config.plStartW := by rw [bits_val_take hstart, bits_val_take hlength]
      _ = s := List.take_append_drop ..

/-- With a complete word in front, decoding answers its fields and what follows the word (R72). -/
theorem decode_of_complete {p : Place} {s : List Bit} (h : p.width ≤ s.length) :
    decode p s = .ok (decodeFields p (s.take p.width), s.drop p.width) := if_neg (Nat.not_lt.mpr h)

/-- Settles O2: an incomplete word is rejected; of a complete one the encoding of its fields is the word itself. -/
theorem everyCompleteWordIsAnInstruction : Obligations.EveryCompleteWordIsAnInstruction := by
  unfold Obligations.EveryCompleteWordIsAnInstruction
  refine fun p s => ⟨decode_of_short, fun h => ⟨_, _, decode_of_complete h, ?_, ?_, ?_⟩⟩
  · exact wellFormed_decodeFields ..
  · exact place_decodeFields ..
  · rw [encode_decodeFields (List.length_take_of_le h), List.take_append_drop]

end Sys2Proof
end

section
/-! PROOF. The instruction a step takes from the source or from a word placed for it (44_pass_control.md R124,
30_encoding.md R54, R57, R72). -/

namespace Sys2Proof.Machine

variable {s : State} {p : Place} {i : Instr} {rest : List Bit}

/-! ## The record due at `RP` -/

/-- A complete record that is due is what the core runs (R124, R72). -/
theorem coreStep_of_decode (hdue : s.due = some p)
    (h : decode p ((s.src.take s.srcLen).drop s.rp) = .ok (i, rest)) : coreStep s = exec i s := by
  refine coreStep_of_fetch s i ?_
  rw [fetch_of_due s p hdue, recordAt_of_decode s p i rest h]

/-- The step in which the host yields is the core's own (log entry 6). -/
theorem step_yield {ops : List HostOp} (h : s.inbox = .yield :: ops) : step s = coreStep (s.withInbox ops) :=
  step_of_op s _ ops h

/-- Settles O4: with no host operation, and with a `yield`, the step is the core's, which runs the record due. -/
theorem stepRunsTheRecordAtRP : Obligations.StepRunsTheRecordAtRP := by
  unfold Obligations.StepRunsTheRecordAtRP
  intro s p i rest hdue h
  refine ⟨fun hno => ?_, fun ops hyield => ?_⟩
  · rw [step_of_no_op s hno, coreStep_of_decode hdue h]
  · rw [step_yield hyield]
    exact coreStep_of_decode (s := s.withInbox ops) hdue h

/-! ## A placed word -/

/-- A write of `CTRL` with `START` to an idle core gives the command in the bits behind `START` (R54, R122). -/
theorem writeCtrl_start (h : s.busy = false) (w : Nat) :
    writeCtrl (2 * w + 1) s = exec (decodeFields .command (tableBits .command w)) s := by
  have hstart : (2 * w + 1).testBit 0 = true := by simp
  have hhalf : (2 * w + 1) / 2 = w := by omega
  have hcmd : [(2 * w + 1).testBit 2, (2 * w + 1).testBit 1] = tableBits .command w := by
    simp [tableBits, Place.width, Nat.testBit_succ, hhalf]
  rw [writeCtrl, h, if_neg Bool.false_ne_true, if_pos hstart, ctrlCommand, hcmd]

/-- The step of a core with a command placed before it (log entry 6). -/
theorem step_placeCommand (s : State) (w : Nat) :
    step (s.placeCommand w) =
      exec (decodeFields .command (tableBits .command w)) ((s.placeCommand w).withInbox s.inbox) :=
  (step_of_op _ (.write 0 (2 * w + 1)) s.inbox rfl).trans
    (writeCtrl_start (s := (s.placeCommand w).withInbox s.inbox) rfl w)

/-- The step of a core with a record placed before it, in a phase that is to read that record (log entry 6). -/
theorem step_placeRecord {record : List Bit} {st : Strategy} {ph : Phase} {f : Bit}
    (hdue : (s.placeRecord record st ph f).due = some p) (h : decode p record = .ok (i, rest)) :
    step (s.placeRecord record st ph f) = exec i ((s.placeRecord record st ph f).withInbox s.inbox) := by
  refine (step_yield rfl).trans (coreStep_of_decode hdue (i := i) (rest := rest) ?_)
  have hsrc : (record.take record.length).drop 0 = record := by rw [List.take_length, List.drop_zero]
  exact (congrArg (decode p) hsrc).trans h

/-- A word placed as its place requires is what the next step runs, whatever the place (R57). -/
theorem step_placeWord {w : Nat} (s : State) (h : decode p (tableBits p w) = .ok (i, rest)) :
    step (s.placeWord p w) = exec i ((s.placeWord p w).withInbox s.inbox) := by
  cases p with
  | command =>
    cases (decode_word (length_bits _ w)).symm.trans h
    exact step_placeCommand s w
  | plHeader | plRecord | arlZero | arlOne => exact step_placeRecord rfl h

/-- Which words the table's decoder takes: those of a place, decoded there (log entry 11). -/
theorem decodeTableWord_eq_some {nbits w : Nat} (h : decodeTableWord nbits w = some i) :
    ∃ p rest, tablePlace nbits w = some p ∧ decode p (tableBits p w) = .ok (i, rest) := by
  unfold decodeTableWord at h
  split at h
  · cases h
  next p hp =>
    split at h
    · cases h
    · split at h
      next j rest hd => cases h; exact ⟨p, rest, hp, hd⟩
      next => cases h

/-- Settles O7: the table's decoder and `withFetchWord` choose the same place, and a word placed there runs. -/
theorem placedWordRuns : Obligations.PlacedWordRuns := by
  unfold Obligations.PlacedWordRuns
  intro s nbits w i h
  obtain ⟨p, rest, hp, hd⟩ := decodeTableWord_eq_some h
  have hplace : s.withFetchWord nbits w = s.placeWord p w := by rw [State.withFetchWord, hp]
  rw [hplace]
  exact step_placeWord s hd

end Sys2Proof.Machine
end

section
/-! PROOF. `runs1` lists the maximal runs of `1`s (42_position_length.md R105). -/

namespace Sys2Proof.Machine

/-! ## Cutting the leading run off a sequence -/

/-- The leading run of bits of value `v`, written out. -/
theorem replicate_append_dropWhile (v : Bit) (b : List Bit) :
    List.replicate (b.takeWhile (· == v)).length v ++ b.dropWhile (· == v) = b := by
  have hrun : b.takeWhile (· == v) = List.replicate (b.takeWhile (· == v)).length v :=
    List.eq_replicate_of_mem fun x hx => eq_of_beq (List.mem_takeWhile_imp (p := (· == v)) hx)
  rw [← hrun, List.takeWhile_append_dropWhile]

/-- What is left after the leading run of `v` starts with the other bit, if anything is left. -/
theorem exists_dropWhile_eq_cons {v : Bit} {b : List Bit} (h : b.dropWhile (· == v) ≠ []) :
    ∃ c, b.dropWhile (· == v) = (!v) :: c := by
  obtain ⟨x, c, hc⟩ := List.exists_cons_of_ne_nil h
  have hx := List.head_dropWhile_not (· == v) h
  simp only [hc, List.head_cons, beq_eq_false_iff_ne] at hx
  exact ⟨c, by rw [hc, Bool.eq_not_of_ne hx]⟩

theorem getElem?_zero_dropWhile_ne (v : Bit) (b : List Bit) : (b.dropWhile (· == v))[0]? ≠ some v := by
  by_cases h : b.dropWhile (· == v) = []
  · simp [h]
  · obtain ⟨c, hc⟩ := exists_dropWhile_eq_cons h
    simp [hc]

/-! ## The maximal runs behind a leading run -/

section
variable {b c : List Bit} {k n g r : Nat}

/-- A maximal run starts with a `1`. -/
theorem MaximalRun.getElem?_start (h : MaximalRun b k n) : b[k]? = some true := by
  obtain ⟨hn, -, hones, -⟩ := h
  exact hones k le_rfl (by omega)

theorem getElem?_append_length_add (c b : List Bit) (m : Nat) : (c ++ b)[c.length + m]? = b[m]? := by
  rw [List.getElem?_append_right (Nat.le_add_right ..), Nat.add_sub_cancel_left]

/-- The left edge of a run of `b` is its left edge in `c ++ b`, unless a `1` at the end of `c` meets one of `b`. -/
theorem leftEdge_append_iff (hk : b[k]? = some true) (hedge : b[0]? = some true → c.getLast? ≠ some true) :
    (c.length + k = 0 ∨ (c ++ b)[c.length + k - 1]? = some false) ↔ (k = 0 ∨ b[k - 1]? = some false) := by
  cases k with
  | succ k => simp [← Nat.add_assoc, getElem?_append_length_add]
  | zero =>
    rcases List.eq_nil_or_concat c with rfl | ⟨c, x, rfl⟩
    · simp
    · have hx : x = false := by simpa using hedge hk
      simp [hx]

/-- The maximal runs of `b` are those of `c ++ b` from `b` on, unless a `1` at the end of `c` meets one of `b`. -/
theorem maximalRun_append_iff (hedge : b[0]? = some true → c.getLast? ≠ some true) :
    MaximalRun (c ++ b) (c.length + k) n ↔ MaximalRun b k n := by
  have hlen : c.length + k + n ≤ (c ++ b).length ↔ k + n ≤ b.length := by
    rw [List.length_append]; omega
  have hones : (∀ m, c.length + k ≤ m → m < c.length + k + n → (c ++ b)[m]? = some true) ↔
      ∀ m, k ≤ m → m < k + n → b[m]? = some true := by
    constructor
    · intro h m hm hm'
      rw [← getElem?_append_length_add c]
      exact h _ (by omega) (by omega)
    · intro h m hm hm'
      obtain ⟨j, rfl⟩ := Nat.exists_eq_add_of_le (show c.length ≤ m by omega)
      rw [getElem?_append_length_add]
      exact h _ (by omega) (by omega)
  have hstart (h1 : 1 ≤ n) (h : ∀ m, k ≤ m → m < k + n → b[m]? = some true) := h k le_rfl (by omega)
  unfold MaximalRun
  rw [hlen, hones, Nat.add_assoc, getElem?_append_length_add]
  exact and_congr_right fun h1 => and_congr_right fun _ => and_congr_right fun h =>
    and_congr_left fun _ => leftEdge_append_iff (hstart h1 h) hedge

theorem not_maximalRun_zeros : ¬ MaximalRun (List.replicate g false) k n := by
  intro h
  have hone := h.getElem?_start
  simp [List.getElem?_replicate] at hone

/-- No maximal run starts among leading `0`s. -/
theorem MaximalRun.length_zeros_le (h : MaximalRun (List.replicate g false ++ b) k n) : g ≤ k := by
  by_contra hk
  have hone := h.getElem?_start
  rw [List.getElem?_append_left (by simpa using hk)] at hone
  simp [List.getElem?_replicate] at hone

theorem maximalRun_zeros_append_iff :
    MaximalRun (List.replicate g false ++ b) k n ↔ ∃ j, k = g + j ∧ MaximalRun b j n := by
  have hbehind (j : Nat) : MaximalRun (List.replicate g false ++ b) (g + j) n ↔ MaximalRun b j n := by
    have hedge : (List.replicate g false).getLast? ≠ some true := by simp [List.getLast?_replicate]
    simpa using maximalRun_append_iff (c := List.replicate g false) (fun _ => hedge)
  constructor
  · intro h
    obtain ⟨j, rfl⟩ := Nat.exists_eq_add_of_le h.length_zeros_le
    exact ⟨j, rfl, (hbehind j).mp h⟩
  · rintro ⟨j, rfl, h⟩
    exact (hbehind j).mpr h

/-- Of leading `1`s that the rest does not go on, all together are the one maximal run that starts there. -/
theorem maximalRun_leading_iff (hr : 0 < r) (hb : b[0]? ≠ some true) (hk : k < r) :
    MaximalRun (List.replicate r true ++ b) k n ↔ k = 0 ∧ n = r := by
  have hin (m : Nat) (hm : m < r) : (List.replicate r true ++ b)[m]? = some true := by
    rw [List.getElem?_append_left (by simpa using hm), List.getElem?_replicate, if_pos hm]
  have hout : (List.replicate r true ++ b)[r]? = b[0]? := by
    simpa using getElem?_append_length_add (List.replicate r true) b 0
  constructor
  · rintro ⟨-, -, hones, hleft, hright⟩
    have hk0 : k = 0 := hleft.resolve_right (by rw [hin _ (by omega)]; decide)
    subst hk0
    rw [Nat.zero_add] at hones hright
    have hle : r ≤ n := Nat.le_of_not_lt fun hlt => hright (hin n hlt)
    have hge : n ≤ r := Nat.le_of_not_lt fun hlt => hb (hout ▸ hones r (Nat.zero_le r) hlt)
    exact ⟨rfl, Nat.le_antisymm hge hle⟩
  · rintro ⟨rfl, rfl⟩
    refine ⟨hr, by simp, fun m _ hm => hin m (by omega), .inl rfl, ?_⟩
    rwa [Nat.zero_add, hout]

theorem maximalRun_ones_append_iff (hr : 0 < r) (hb : b[0]? ≠ some true) :
    MaximalRun (List.replicate r true ++ b) k n ↔ (k = 0 ∧ n = r) ∨ ∃ j, k = r + j ∧ MaximalRun b j n := by
  by_cases hk : k < r
  · rw [maximalRun_leading_iff hr hb hk, or_iff_left]
    rintro ⟨j, rfl, -⟩
    omega
  · obtain ⟨j, rfl⟩ := Nat.exists_eq_add_of_le (Nat.le_of_not_lt hk)
    have hbehind := maximalRun_append_iff (c := List.replicate r true) (k := j) (n := n) (fun h => absurd h hb)
    rw [List.length_replicate] at hbehind
    rw [hbehind, or_iff_right (by omega)]
    simp

end

/-! ## The recursion of `runs1` -/

section
variable {turns at_ s n : Nat} {b : List Bit}

/-- Everything one turn of `runs1From` does: it lists the `1`s behind the leading `0`s, if there are any, and goes on
with the rest. -/
theorem runs1From_succ_cases (turns at_ : Nat) (b : List Bit) :
    (∃ g, b = List.replicate g false ∧ runs1From (turns + 1) at_ b = []) ∨
    ∃ g r rest, 0 < r ∧ rest[0]? ≠ some true ∧ b = List.replicate g false ++ (List.replicate r true ++ rest) ∧
      runs1From (turns + 1) at_ b = (at_ + g, r) :: runs1From turns (at_ + g + r) rest := by
  have hzeros := replicate_append_dropWhile false b
  by_cases hnil : b.dropWhile (· == false) = []
  · rw [hnil, List.append_nil] at hzeros
    exact .inl ⟨_, hzeros.symm, if_pos hnil⟩
  · have hones := replicate_append_dropWhile true (b.dropWhile (· == false))
    obtain ⟨c, hc⟩ := exists_dropWhile_eq_cons hnil
    refine .inr ⟨_, _, _, ?_, getElem?_zero_dropWhile_ne true (b.dropWhile (· == false)), ?_, if_neg hnil⟩
    · rw [hc, List.takeWhile_cons_of_pos rfl]
      exact Nat.succ_pos _
    · rw [hones, hzeros]

/-- With a turn for every bit, `runs1From` lists the maximal runs of `b`, counted from `at_`. -/
theorem mem_runs1From (h : b.length < turns) :
    (s, n) ∈ runs1From turns at_ b ↔ ∃ k, s = at_ + k ∧ MaximalRun b k n := by
  induction turns generalizing at_ b with
  | zero => omega
  | succ turns ih =>
    obtain ⟨g, rfl, hruns⟩ | ⟨g, r, rest, hr, hrest, rfl, hruns⟩ := runs1From_succ_cases turns at_ b
    · simp [hruns, not_maximalRun_zeros]
    · have hlen : rest.length < turns := by
        simp only [List.length_append, List.length_replicate] at h
        omega
      simp only [hruns, List.mem_cons, Prod.mk.injEq, ih hlen, maximalRun_zeros_append_iff,
        maximalRun_ones_append_iff hr hrest]
      constructor
      · rintro (⟨rfl, rfl⟩ | ⟨k, rfl, hk⟩)
        · exact ⟨g, rfl, 0, rfl, .inl ⟨rfl, rfl⟩⟩
        · exact ⟨g + (r + k), by omega, r + k, rfl, .inr ⟨k, rfl, hk⟩⟩
      · rintro ⟨_, rfl, _, rfl, ⟨rfl, rfl⟩ | ⟨k, rfl, hk⟩⟩
        · exact .inl ⟨rfl, rfl⟩
        · exact .inr ⟨k, by omega, hk⟩

/-- The runs behind the first one start behind it. -/
theorem pairwise_runs1From (h : b.length < turns) : (runs1From turns at_ b).Pairwise fun x y => x.1 < y.1 := by
  induction turns generalizing at_ b with
  | zero => omega
  | succ turns ih =>
    obtain ⟨g, rfl, hruns⟩ | ⟨g, r, rest, hr, -, rfl, hruns⟩ := runs1From_succ_cases turns at_ b
    · rw [hruns]; exact .nil
    · have hlen : rest.length < turns := by
        simp only [List.length_append, List.length_replicate] at h
        omega
      rw [hruns]
      refine .cons (fun ⟨s, n⟩ hmem => ?_) (ih hlen)
      obtain ⟨k, rfl, -⟩ := (mem_runs1From hlen).mp hmem
      show at_ + g < at_ + g + r + k
      omega

end

/-- Settles O51: `runs1` has a turn for every bit and counts from 0. -/
theorem runsAreTheMaximalRuns : Obligations.RunsAreTheMaximalRuns := by
  unfold Obligations.RunsAreTheMaximalRuns
  intro b
  refine ⟨fun s n => ?_, pairwise_runs1From (Nat.lt_succ_self _)⟩
  simp [runs1, mem_runs1From (Nat.lt_succ_self b.length)]

end Sys2Proof.Machine
end

section
/-! PROOF. The laws of `Pack` and `Unpack` (40_framer.md R80 to R82). -/

namespace Sys2Proof

variable {a s : List Bit} {n : Nat}

/-- A whole byte in front does not change the padding (R80). -/
theorem padded_byte_append (ha : a.length = 8) (s : List Bit) : padded (a ++ s) = a ++ padded s := by
  have hpad : padCount (8 + s.length) = padCount s.length := by unfold padCount; omega
  rw [padded, padded, List.length_append, ha, hpad, List.append_assoc]

/-- The first byte of `Pack` is made of the first eight bits (R80). -/
theorem pack_byte_append (ha : a.length = 8) (s : List Bit) : pack (a ++ s) = BitVec.ofNat 8 (val a) :: pack s := by
  have hdrop (k : Nat) : (a ++ padded s).drop (8 * (k + 1)) = (padded s).drop (8 * k) := by
    rw [show 8 * (k + 1) = a.length + 8 * k by omega, ← List.drop_drop, List.drop_left]
  have hbytes : (a ++ padded s).length / 8 = (padded s).length / 8 + 1 := by
    rw [List.length_append, ha, Nat.add_div_left _ (by decide)]
  rw [pack, padded_byte_append ha, hbytes, List.range_succ_eq_map, List.map_cons, List.map_map, Nat.mul_zero,
    List.drop_zero, List.take_left' ha, pack]
  simp only [Function.comp_def, Nat.succ_eq_add_one, hdrop]

@[simp] theorem pack_nil : pack [] = [] := rfl

/-- Padding fills up to whole bytes (R80). -/
theorem length_padded_mod (s : List Bit) : (padded s).length % 8 = 0 := by
  rw [length_padded, padCount]; omega

/-- Whole bytes need no padding (R80). -/
theorem padded_of_whole (h : s.length % 8 = 0) : padded s = s := by
  have hpad : padCount s.length = 0 := by rw [padCount, h]
  rw [padded, hpad, List.replicate_zero, List.append_nil]

/-- `Pack` depends on the padded sequence alone (R80). -/
theorem pack_padded (s : List Bit) : pack (padded s) = pack s := by
  rw [pack, padded_of_whole (length_padded_mod s), pack]

/-- `Pack` has ceil(len / 8) bytes (R82 d). -/
theorem length_pack (s : List Bit) : (pack s).length = (s.length + 7) / 8 := by
  rw [pack, List.length_map, List.length_range, length_padded, padCount]; omega

/-- The byte made of eight bits spells them (R81). -/
theorem bits_ofNat_val (ha : a.length = 8) : bits 8 (BitVec.ofNat 8 (val a)).toNat = a := by
  have hlt : val a < 2 ^ 8 := ha ▸ val_lt a
  rw [BitVec.toNat_ofNat, Nat.mod_eq_of_lt hlt, ← ha, bits_val]

/-- On whole bytes `Unpack` undoes `Pack`, one byte after the other. -/
theorem unpackAll_pack_of_bytes (h : s.length = 8 * n) : unpackAll (pack s) = s := by
  induction n generalizing s with
  | zero => rw [List.length_eq_zero_iff.mp h, pack_nil, unpackAll_nil]
  | succ n ih =>
    have ha : (s.take 8).length = 8 := List.length_take_of_le (by omega)
    have hrest : (s.drop 8).length = 8 * n := by rw [List.length_drop]; omega
    rw [← List.take_append_drop 8 s, pack_byte_append ha, unpackAll_cons, bits_ofNat_val ha, ih hrest]

/-- Without a length `Unpack` gives the pad bits as well (R82 a). -/
theorem unpackAll_pack (s : List Bit) : unpackAll (pack s) = padded s := by
  have hbytes : (padded s).length = 8 * ((padded s).length / 8) := by
    have := length_padded_mod s
    omega
  rw [← pack_padded, unpackAll_pack_of_bytes hbytes]

/-- At the length `Unpack` undoes `Pack` (R82 a). -/
theorem unpack_pack (s : List Bit) : unpack (pack s) s.length = s := by
  rw [unpack, unpackAll_pack, padded, List.take_left]

/-- `Pack` undoes `Unpack`, one byte after the other (R82 b). -/
theorem pack_unpackAll (bytes : List Byte) : pack (unpackAll bytes) = bytes := by
  induction bytes with
  | nil => rfl
  | cons b bytes ih =>
    rw [unpackAll_cons, pack_byte_append (length_bits 8 _), ih, val_bits 8 _ b.isLt, BitVec.ofNat_toNat,
      BitVec.setWidth_eq]

/-- Settles O56: the sequence padded to whole bytes is packed and unpacked byte by byte. -/
theorem packUnpack : Obligations.PackUnpack :=
  ⟨fun s => ⟨unpack_pack s, unpackAll_pack s, length_pack s⟩, pack_unpackAll⟩

end Sys2Proof
end

section
/-! PROOF. The operations of the framer, inside their interface and outside it (40_framer.md R73 to R78,
93_implementation_defined.md U4 to U6). -/

namespace Sys2Proof.Machine

variable {s : State} {v w : Nat}

/-- On an exhausted source `RDBIT` has no bit (R74). -/
theorem rdbit_of_exhausted (h : s.rp = s.srcLen) : rdbit s = none := if_pos ((isExh_iff s).2 h)

/-- `RDUINT` on a shortfall (R75). -/
theorem rduint_of_short (h1 : 1 ≤ w) (h2 : w ≤ 32) (h : s.srcLen - s.rp < w) : rduint w s = .endOfInput := by
  rw [rduint_eq s w h1 h2, if_pos h]

/-- `RDUINT` with bits enough (R75). -/
theorem rduint_of_enough (h1 : 1 ≤ w) (h2 : w ≤ 32) (h : w ≤ s.srcLen - s.rp) :
    rduint w s = .ok (s.memRead s.rp w) (s.advance w) := by
  rw [rduint_eq s w h1 h2, if_neg (Nat.not_lt.mpr h)]

/-- `RDUINT` with a width outside 1..32 (U6). -/
theorem rduint_of_badWidth (h : w < 1 ∨ 32 < w) (s : State) : rduint w s = .badWidth := if_pos h

/-- `WRUINT` with a width outside 1..32 (U6). -/
theorem wruint_of_badWidth (h : w < 1 ∨ 32 < w) (v : Nat) (s : State) : wruint v w s = .refused .badFieldWidth :=
  if_pos h

/-- `WRUINT` of a value too wide for its field (U5). -/
theorem wruint_of_wide (h1 : 1 ≤ w) (h2 : w ≤ 32) (hf : s.fin = false) (hv : 2 ^ w ≤ v) :
    wruint v w s = .refused .valueTooWide := by
  rw [wruint_eq s v w h1 h2, hf, if_neg Bool.false_ne_true, if_pos hv]

/-- `WRUINT` after `FINALIZE` (U4). -/
theorem wruint_of_fin (h1 : 1 ≤ w) (h2 : w ≤ 32) (hf : s.fin = true) (v : Nat) :
    wruint v w s = .refused .writeAfterFinalize := by
  rw [wruint_eq s v w h1 h2, if_pos hf]

/-- `WRBIT` after `FINALIZE` (U4). -/
theorem wrbit_of_fin (hf : s.fin = true) (b : Bit) : wrbit b s = .refused .writeAfterFinalize := if_pos hf

/-- A second `FINALIZE` (U4). -/
theorem finalize_of_fin (hf : s.fin = true) : finalize s = .refused .finalizeTwice := if_pos hf

/-- Settles O57: each operation branches on its width, on what is left or on `FIN`, and on the value, as the clauses
do. -/
theorem framer : Obligations.Framer := by
  unfold Obligations.Framer
  intro s
  refine ⟨isExh_iff s, rdbit_of_exhausted, ?rdbit, ?rduint, ?unsealed, ?sealed, ?badWidth⟩
  case rdbit => exact fun b hne hbit => (rdbit_eq_some s _ b).2 ⟨hne, hbit, rfl⟩
  case rduint => exact fun w h1 h2 => ⟨rduint_of_short h1 h2, rduint_of_enough h1 h2⟩
  case unsealed =>
    exact fun hf => ⟨fun b => wrbit_next s b hf, fun v w h1 h2 => wruint_next s v w h1 h2 hf,
      fun v w h1 h2 => wruint_of_wide h1 h2 hf, (finalize_eq_next s _).2 ⟨hf, rfl⟩⟩
  case sealed =>
    exact fun hf => ⟨wrbit_of_fin hf, fun v w h1 h2 => wruint_of_fin h1 h2 hf v, finalize_of_fin hf⟩
  case badWidth => exact fun v w h => ⟨rduint_of_badWidth h s, wruint_of_badWidth h v s⟩

end Sys2Proof.Machine
end

section
/-! PROOF. From a state that meets `Inv` the core's own step always answers a next state, and a host operation stops
only where the host has left the model (40_framer.md R83, 44_pass_control.md R122, R128, R161). -/

namespace Sys2Proof.Machine

variable {s : State}

/-- The operation answers a next state: neither a fault nor a refusal. -/
def Answers (o : Result) : Prop := ∃ t, o = .next t

/-! ## Sequencing and reading -/

theorem answers_next (s : State) : Answers (.next s) := ⟨s, rfl⟩

/-- A sequence whose first part is known to answer goes on with the second. -/
theorem answers_andThen {o : Result} {t : State} {k : State → Result} (ho : o = .next t) (hk : Answers (k t)) :
    Answers (andThen o k) := by
  rw [ho]; exact hk

/-- A decoder's read stops at nothing: a shortfall is an exception, and a pass goes on from one (R79). -/
theorem answers_readField {w : Nat} {k : State → Result} (h1 : 1 ≤ w) (h2 : w ≤ 32) (hk : Answers (k (s.advance w))) :
    Answers (readField w s k) := by
  rw [readField_eq s w k h1 h2]
  split
  · exact answers_next _
  · exact hk

/-! ## ENC.PL -/

theorem answers_epCheck (s : State) : Answers (epCheck s) := by
  unfold epCheck
  split <;> exact answers_next _

theorem answers_epHdr (r : Running .epHdr s) : Answers (epHdr s) := by
  obtain ⟨-, -, hlen⟩ := r.at_phase
  exact ⟨_, epHdr_eq_next.2 ⟨r.not_fin, Nat.lt_succ_of_le hlen, rfl⟩⟩

/-- The record of a run within the limit can be written (R94). -/
theorem answers_writeRunRecord (hf : s.fin = false) (hrl : s.rl < 256) : Answers (writeRunRecord s) :=
  ⟨_, writeRunRecord_eq_next.2 ⟨hf, hrl, rfl⟩⟩

theorem answers_countOne (s : State) : Answers (countOne s) := by
  unfold countOne
  split <;> exact answers_next _

theorem answers_epScanEnd (hf : s.fin = false) (hrl : s.inRun = true → s.rl < 256) : Answers (epScanEnd s) := by
  unfold epScanEnd
  split
  next hin =>
    obtain ⟨_, ht⟩ := answers_writeRunRecord hf (hrl hin)
    exact answers_andThen ht (answers_next _)
  next => exact answers_next _

theorem answers_epScanBit (b : Bit) (hf : s.fin = false) (hrl : s.inRun = true → s.rl < 256) :
    Answers (epScanBit b s) := by
  unfold epScanBit
  split
  · exact answers_countOne _
  · split
    next hin => exact answers_writeRunRecord hf (hrl hin)
    next => exact answers_next _

/-- Within a pass `RDBIT` has a bit wherever the source is not exhausted (R83 d). -/
theorem Running.rdbit_eq {p : Phase} (r : Running p s) (hne : ¬ s.isExh = true) :
    ∃ b, rdbit s = some (b, s.advance 1) :=
  ⟨_, rdbit_of_lt s r.src_length (Nat.lt_of_le_of_ne r.rp_le fun h => hne ((isExh_iff s).2 h))⟩

theorem answers_epScan (r : Running .epScan s) : Answers (epScan s) := by
  obtain ⟨-, hrun, -⟩ := r.at_phase
  have hrl (hin : s.inRun = true) : s.rl < 256 := Nat.lt_succ_of_le (hrun hin).2.1
  unfold epScan
  split
  · exact answers_epScanEnd r.not_fin hrl
  next hne =>
    obtain ⟨b, hb⟩ := r.rdbit_eq hne
    rw [hb]
    exact answers_epScanBit b r.not_fin hrl

/-! ## DEC.PL -/

theorem answers_dpHdr (s : State) : Answers (dpHdr s) :=
  answers_readField (by decide) (by decide) (answers_next _)

/-- A record's checks raise, and what passes them is emitted into an open sink (R100). -/
theorem answers_runRecordBody (hf : s.fin = false) : Answers (runRecordBody s) := by
  unfold runRecordBody
  split
  · exact answers_next _
  · split
    · exact answers_next _
    · exact answers_andThen (emit_next s _ _ hf) ⟨_, emit_next _ _ _ hf⟩

theorem answers_execPlRun (start length : Nat) (hf : s.fin = false) : Answers (execPlRun start length s) :=
  answers_readField (by decide) (by decide) <|
    answers_readField (by decide) (by decide) (answers_runRecordBody hf)

theorem answers_dpRun (hf : s.fin = false) : Answers (dpRun s) := by
  unfold dpRun
  split
  · exact answers_next _
  · exact answers_execPlRun _ _ hf

theorem answers_dpTail (hf : s.fin = false) : Answers (dpTail s) :=
  answers_andThen (emit_next s _ _ hf) (answers_next _)

/-! ## ENC.ARL -/

theorem answers_eaScanEnd (hf : s.fin = false) : Answers (eaScanEnd s) := by
  unfold eaScanEnd
  split
  · exact answers_andThen (esc_next _ _ s hf) (answers_next _)
  · exact answers_next _

theorem answers_eaScanBit (b : Bit) (hf : s.fin = false) : Answers (eaScanBit b s) := by
  unfold eaScanBit
  split
  · exact answers_next _
  · exact answers_andThen (esc_next _ _ s hf) (answers_next _)

theorem answers_eaScan (r : Running .eaScan s) : Answers (eaScan s) := by
  unfold eaScan
  split
  · exact answers_eaScanEnd r.not_fin
  next hne =>
    obtain ⟨b, hb⟩ := r.rdbit_eq hne
    rw [hb]
    exact answers_eaScanBit b r.not_fin

/-! ## DEC.ARL -/

theorem answers_arlField (f : Bit) (n : Nat) (hf : s.fin = false) : Answers (arlField f n s) :=
  answers_readField (by decide) (by decide) (answers_andThen (emit_next _ _ _ hf) (answers_next _))

theorem answers_daField (hf : s.fin = false) : Answers (daField s) := by
  unfold daField
  split
  · exact answers_next _
  · split <;> exact answers_arlField _ _ hf

/-! ## The core's step -/

theorem answers_finish (hf : s.fin = false) : Answers (finish s) := ⟨_, (finish_eq_next s _).2 ⟨hf, rfl⟩⟩

/-- The rule of every phase answers (R83, R128). -/
theorem answers_phaseRule (hs : Inv s) : Answers (phaseRule s) := by
  unfold phaseRule
  split
  next => exact answers_next s
  next => exact answers_epCheck s
  next hp => exact answers_epHdr (hs.running hp (by decide))
  next hp => exact answers_epScan (hs.running hp (by decide))
  next => exact answers_dpHdr s
  next hp => exact answers_dpRun (hs.running hp (by decide)).not_fin
  next hp => exact answers_dpTail (hs.running hp (by decide)).not_fin
  next hp => exact answers_eaScan (hs.running hp (by decide))
  next hp => exact answers_daField (hs.running hp (by decide)).not_fin
  next hp => exact answers_finish (hs.running hp (by decide)).not_fin

theorem answers_coreStep (hs : Inv s) : Answers (coreStep s) :=
  coreStep_eq_phaseRule s ▸ answers_phaseRule hs

/-! ## The host's operations -/

/-- The operation answers, or is refused for what the host has done. -/
def StopsByHostOnly (o : Result) : Prop := Answers o ∨ ∃ r, o = .refused r ∧ r.byHost = true

theorem StopsByHostOnly.ne_fault {o : Result} (h : StopsByHostOnly o) (r : Fault) : o ≠ .fault r := by
  rintro rfl
  obtain ⟨_, ht⟩ | ⟨_, hr, -⟩ := h
  · cases ht
  · cases hr

theorem StopsByHostOnly.byHost_of_refused {o : Result} (h : StopsByHostOnly o) (r : Refusal) (hr : o = .refused r) :
    r.byHost = true := by
  subst hr
  obtain ⟨_, ht⟩ | ⟨_, hr', hby⟩ := h
  · cases ht
  · cases hr'; exact hby

/-- `START` is refused only for a length above `SRC_LEN_MAX` (R122). -/
theorem startPass_stopsByHostOnly (m : Mode) (st : Strategy) (p : Phase) (s : State) :
    StopsByHostOnly (startPass m st p s) := by
  unfold startPass
  split
  · exact .inl (answers_next _)
  · exact .inr ⟨_, rfl, rfl⟩

theorem writeCtrl_stopsByHostOnly (v : Nat) (s : State) : StopsByHostOnly (writeCtrl v s) := by
  unfold writeCtrl
  split
  · exact .inl (answers_next s)
  next hidle =>
    split
    · have hp : s.phase = .idle := (busy_eq_false_iff s).1 (Bool.eq_false_iff.mpr hidle)
      obtain ⟨m, st, p, he, -⟩ := exec_command_of_idle (place_ctrlCommand v) hp
      exact he ▸ startPass_stopsByHostOnly m st p s
    · exact .inl (answers_next _)

theorem writeReg_stopsByHostOnly (reg v : Nat) (s : State) : StopsByHostOnly (writeReg reg v s) := by
  unfold writeReg
  split
  · exact writeCtrl_stopsByHostOnly v s
  · exact .inl ⟨_, writeSrcLen_eq v s⟩
  · exact .inl (answers_next s)

/-- Bytes are refused only during a pass (R161). -/
theorem supply_stopsByHostOnly (bytes : List Byte) (s : State) : StopsByHostOnly (supply bytes s) := by
  unfold supply
  split
  · exact .inr ⟨_, rfl, rfl⟩
  · exact .inl (answers_next _)

theorem hostStep_stopsByHostOnly (op : HostOp) (hs : Inv s) : StopsByHostOnly (hostStep op s) := by
  cases op with
  | yield => exact .inl (answers_coreStep hs)
  | write reg v => exact writeReg_stopsByHostOnly reg v s
  | supply bytes => exact supply_stopsByHostOnly bytes s
  | read | collect | reset => exact .inl (answers_next _)

/-! ## The step -/

theorem answers_step_of_no_op (hs : Inv s) (h : s.inbox = []) : Answers (step s) :=
  step_of_no_op s h ▸ answers_coreStep hs

theorem step_stopsByHostOnly (hs : Inv s) : StopsByHostOnly (step s) := by
  cases hi : s.inbox with
  | nil => exact .inl (answers_step_of_no_op hs hi)
  | cons op rest =>
    have hr : Inv (s.withInbox rest) := { hs with }
    exact step_of_op s op rest hi ▸ hostStep_stopsByHostOnly op hr

/-- Settles O38: the core's own step answers, and a host operation answers or is refused for what the host did. -/
theorem onlyTheHostCanStop : Obligations.OnlyTheHostCanStop := by
  unfold Obligations.OnlyTheHostCanStop
  intro s hs
  have hstep := step_stopsByHostOnly hs
  exact ⟨hstep.ne_fault, hstep.byHost_of_refused, answers_step_of_no_op hs⟩

end Sys2Proof.Machine
end

section
/-! PROOF. The escape chain: its closed form, its properties, and that the decoder of strategy B reads it as one run
(41_escape_chain.md R85 to R88). -/

namespace Sys2Proof.Machine

/-- `EscChain n vs`: the fields `vs` are `Esc(n)` by the two equations of R85, with no bound on the turns. -/
inductive EscChain : Nat → List Nat → Prop
  | last {n : Nat} (h : n ≤ 255) : EscChain n [n]
  | turn {n : Nat} {vs : List Nat} (hn : 1 ≤ n) (c : EscChain n vs) : EscChain (n + 255) (255 :: 0 :: vs)

/-- A loop that may turn often enough ends in the last field. -/
theorem escChain_escLoop (turns n : Nat) (h : n ≤ 255 * (turns + 1)) : EscChain n (escLoop turns n) := by
  induction turns generalizing n with
  | zero => exact .last h
  | succ turns ih =>
    unfold escLoop Config.cap
    split
    next hn =>
      have c := EscChain.turn (by omega) (ih (n - 255) (by omega))
      rwa [Nat.sub_add_cancel hn.le] at c
    next hn => exact .last (Nat.le_of_not_lt hn)

/-- The model's fields are the chain of R85; each fact below is an induction on it. -/
theorem escChain_escFields (n : Nat) : EscChain n (escFields n) :=
  escChain_escLoop n n (by omega)

namespace EscChain

variable {n : Nat} {vs : List Nat} (c : EscChain n vs)
include c

/-! ## The closed form (R86) -/

theorem eq_replicate_append :
    vs = (List.replicate ((n - 1) / 255) [255, 0]).flatten ++ [n - 255 * ((n - 1) / 255)] := by
  induction c with
  | @last n h =>
    have hq : (n - 1) / 255 = 0 := by omega
    simp [hq]
  | @turn n vs hn _ ih =>
    have hq : (n + 255 - 1) / 255 = (n - 1) / 255 + 1 := by omega
    have hr : n + 255 - 255 * ((n - 1) / 255 + 1) = n - 255 * ((n - 1) / 255) := by omega
    rw [hq, hr, List.replicate_succ, List.flatten_cons, List.append_assoc, ← ih]
    rfl

theorem length_eq : vs.length = 2 * ((n - 1) / 255) + 1 := by
  rw [c.eq_replicate_append]
  simp [Nat.mul_comm]

/-! ## The properties (R87) -/

theorem sum_eq : vs.sum = n := by
  induction c with
  | last => rfl
  | turn _ _ ih => simp only [List.sum_cons, ih]; omega

theorem sum_evenOffsets : (evenOffsets vs).sum = n := by
  induction c with
  | last => rfl
  | turn _ _ ih => rw [evenOffsets, List.sum_cons, ih, Nat.add_comm]

theorem length_odd : vs.length % 2 = 1 := by
  rw [c.length_eq]; omega

/-- Before the last field, full fields and fillers alternate. -/
theorem getElem?_before_last {k : Nat} (hk : k + 1 < vs.length) : vs[k]? = some (if k % 2 = 0 then 255 else 0) := by
  induction c generalizing k with
  | last => simp only [List.length_singleton] at hk; omega
  | turn _ _ ih =>
    match k with
    | 0 => rfl
    | 1 => rfl
    | k + 2 =>
      simp only [List.length_cons] at hk
      simpa using ih (k := k) (by omega)

theorem getElem?_even {k : Nat} (hk : k + 1 < vs.length) (heven : k % 2 = 0) : vs[k]? = some 255 := by
  rw [c.getElem?_before_last hk, if_pos heven]

/-- An odd offset is never the last one, as the length is odd. -/
theorem getElem?_odd {k : Nat} (hk : k < vs.length) (hodd : k % 2 = 1) : vs[k]? = some 0 := by
  have hlen := c.length_odd
  rw [c.getElem?_before_last (by omega), if_neg (by omega)]

theorem exists_getLast?_pos (hn : 1 ≤ n) : ∃ v, vs.getLast? = some v ∧ 1 ≤ v := by
  rw [c.eq_replicate_append, List.getLast?_concat]
  exact ⟨_, rfl, by omega⟩

end EscChain

/-- Settles O53: the closed form of the chain; the remainder after full pairs is never 0. -/
theorem escClosedForm : Obligations.EscClosedForm := by
  refine ⟨rfl, fun n hn => ?_⟩
  have c := escChain_escFields n
  exact ⟨by omega, by omega, c.eq_replicate_append, c.length_eq, by rw [length_flatMap_bits, c.length_eq]⟩

/-- Settles O54 by the facts about chains; `Esc` is injective because its fields sum to the count. -/
theorem escProperties : Obligations.EscProperties := by
  refine ⟨fun n => ?_, fun m n h => ?_⟩
  · have c := escChain_escFields n
    exact ⟨c.length_odd, escFields_le_cap n, c.sum_evenOffsets, fun _ => c.getElem?_odd,
      fun hn => ⟨c.exists_getLast?_pos hn, fun _ => c.getElem?_even⟩, c.sum_eq⟩
  · calc m = (escFields m).sum := (escChain_escFields m).sum_eq.symm
      _ = (escFields n).sum := by rw [h]
      _ = n := (escChain_escFields n).sum_eq

/-! ## Transparency to the decoder (R88) -/

/-- A whole field gives its bits of the value due, and the other value is due behind it (43_alternating.md R120). -/
theorem decARLFrom_field (turns : Nat) (f : Bit) {v : Nat} (hv : v ≤ 255) (s out : List Bit) :
    decARLFrom (turns + 1) f (bits 8 v ++ s) out = decARLFrom turns (!f) s (out ++ List.replicate v f) := by
  have hne : bits 8 v ++ s ≠ [] := by simp
  have hlen : ¬ (bits 8 v ++ s).length < 8 := by simp
  rw [decARLFrom, if_neg hne, if_neg hlen]
  simp only [List.take_left' (length_bits 8 v), List.drop_left' (length_bits 8 v), val_bits 8 v (Nat.lt_succ_of_le hv)]

/-- A turn's two fields give 255 bits and leave the same value due: the filler gives none of the other value. -/
theorem EscChain.decARLFrom_eq {n : Nat} {vs : List Nat} (c : EscChain n vs) (turns : Nat) (f : Bit)
    (rest out : List Bit) :
    decARLFrom (vs.length + turns) f (vs.flatMap (bits 8) ++ rest) out =
      decARLFrom turns (!f) rest (out ++ List.replicate n f) := by
  induction c generalizing out with
  | last h =>
    rw [List.length_singleton, Nat.add_comm, List.flatMap_singleton, decARLFrom_field turns f h]
  | @turn n vs _ _ ih =>
    have hturns : (255 :: 0 :: vs).length + turns = vs.length + turns + 1 + 1 := by
      simp only [List.length_cons]; omega
    rw [hturns, List.flatMap_cons, List.flatMap_cons, List.append_assoc, List.append_assoc,
      decARLFrom_field _ f le_rfl, decARLFrom_field _ (!f) (Nat.zero_le _), Bool.not_not, ih, List.replicate_zero,
      List.append_nil, List.append_assoc, List.replicate_append_replicate, Nat.add_comm 255]

/-- Settles O55: the fields of a run length are a chain, and the decoder reads a chain as one run. -/
theorem escTransparent : Obligations.EscTransparent :=
  fun n => (escChain_escFields n).decARLFrom_eq

end Sys2Proof.Machine
end

section
/-! PROOF. How a pass ends: from any state of it to the result that the host reads (44_pass_control.md R126 to R128). -/

namespace Sys2Proof.Machine

variable {s t : State} {r : PassResult} {p : Phase} {k : Nat}

/-! ## A pass left to itself -/

/-- A pass in phase `p`, with no host operation waiting. -/
structure Alone (p : Phase) (s : State) : Prop extends Running p s where
  no_op : s.inbox = []

/-- Within `k` steps the pass at `s` is over, and what the host observes is the result `r`. -/
def Delivers (r : PassResult) (k : Nat) (s : State) : Prop :=
  ∃ n t, n ≤ k ∧ run n s = .next t ∧ t.command = s.command ∧ PassEnds r s t

theorem Delivers.mono {k' : Nat} (h : Delivers r k s) (hk : k ≤ k') : Delivers r k' s := by
  obtain ⟨n, t, hn, hrun⟩ := h
  exact ⟨n, t, hn.trans hk, hrun⟩

/-- What the host observes depends on the state before only by `SRC_LEN`. -/
theorem passEnds_congr {u : State} (h : t.srcLen = s.srcLen) (he : PassEnds r t u) : PassEnds r s u := by
  unfold PassEnds at he ⊢
  rwa [h] at he

/-- A pass delivers what it delivers after its next step, which is the rule of its phase (R124). -/
theorem Alone.delivers_of_rule (a : Alone p s) (hp : p ≠ .idle) (hf : p ≠ .finish)
    (next : ∀ t, phaseRule s = .next t → (∀ q, t.phase = q → q ≠ .idle → Alone q t) → Delivers r k t) :
    Delivers r (k + 1) s := by
  have hs := a.inv hp
  obtain ⟨t, ht⟩ := answers_phaseRule hs
  obtain ⟨i, hi⟩ : ∃ i, p.owner = some i := by cases p <;> simp_all [Phase.owner]
  obtain ⟨f, -⟩ := phaseRule_frame (a.phase.symm ▸ hi) ht
  have alone (q : Phase) (hq : t.phase = q) (hne : q ≠ .idle) : Alone q t :=
    ⟨(phaseRule_keeps_inv hs ht).running hq hne, f.inbox.trans a.no_op⟩
  obtain ⟨n, u, hn, hrun, hcmd, hend⟩ := next t ht alone
  refine ⟨n + 1, u, Nat.succ_le_succ hn, ?_, hcmd.trans f.command, passEnds_congr f.srcLen hend⟩
  rw [run_succ, step_of_no_op s a.no_op, coreStep_eq_phaseRule, ht, andThen_next, hrun]

/-! ## The last step -/

/-- `FINISH` is one step (R126). -/
theorem Alone.run_finish (a : Alone .finish s) : run 1 s = .next s.seal.complete := by
  have hfin : finish s = .next s.seal.complete := (finish_eq_next s _).2 ⟨a.not_fin, rfl⟩
  rw [run_succ, step_of_no_op s a.no_op, coreStep_eq_phaseRule, phaseRule, a.phase, hfin, andThen_next, run_zero]

/-- A pass that reaches `FINISH` without an error gives its sink (R127). -/
theorem Alone.delivers_ok (a : Alone .finish s) (he : s.ecode = .none) : Delivers (.ok s.snk) (k + 1) s := by
  have hread : s.seal.complete.readable = true := (readable_iff _).2 ⟨rfl, he⟩
  obtain ⟨-, hrp⟩ := a.at_phase
  refine ⟨1, _, Nat.le_add_left 1 k, a.run_finish, rfl, rfl, rfl, ?_, rfl, snkbRead_of_readable hread,
    snkLenRead_of_readable hread, (srcPosRead_of_readable hread).trans (hrp he)⟩
  simp [State.statusWord, State.busy, State.err, he, ECode.code]

/-- A pass that has failed gives its code (R127, 60_exceptions.md R141). -/
theorem Alone.delivers_error {e : ECode} (a : Alone .finish s) (he : s.ecode = e) (hne : e ≠ .none) :
    Delivers (.error e) (k + 1) s := by
  have herr : s.seal.complete.err = true := (err_iff _).2 (he.trans_ne hne)
  refine ⟨1, _, Nat.le_add_left 1 k, a.run_finish, rfl, rfl, rfl, ?_⟩
  simp [State.statusWord, State.busy, herr, he]

/-! ## The first step -/

/-- A command computes `f` if its pass, begun on any source, delivers `f` of that source within the bits there are and
four more steps (R123, R128). -/
theorem passComputes_of_begin {m : Mode} {st : Strategy} {f : List Bit → PassResult}
    (hstart : ∀ s : State, s.phase = .idle → exec (commandOf m st) s = startPass m st p s)
    (ho : p.owner = some (commandOf m st)) (hp : p ∈ [Phase.epCheck, .eaScan, .dpHdr, .daField])
    (h : ∀ s : State, Alone p (s.begin m st p) → Delivers (f s.boundSource) (s.srcLen + 4) (s.begin m st p)) :
    PassComputes (commandOf m st) f := by
  rintro s ⟨hidle, hno, hlen, hbytes⟩
  rw [srcLenAllowed_iff] at hlen
  obtain ⟨n, t, hn, hrun, hcmd, hend⟩ := h s ⟨begin_running hlen ho hp, hno⟩
  refine ⟨n, t, Nat.succ_le_succ hn, ?_, hcmd, ?_⟩
  · rw [hstart s hidle, (startPass_eq_next m st p s _).2 ⟨hlen, rfl⟩, andThen_next, hrun]
  · rw [State.payload, ← boundSource_of_supplied s hbytes]
    exact passEnds_congr rfl hend

end Sys2Proof.Machine
end

section
/-! PROOF. The runs of `1`s as `ENC.PL` meets them, one bit at a time (42_position_length.md R94, R95, R105). -/

namespace Sys2Proof.Machine

variable {b out : List Bit} {start n m : Nat} {rs : List (Nat × Nat)}

/-! ## The scan -/

/-- The record of a run of `n` bits from `start`; an empty run has none. -/
def closeRun (start : Nat) : Nat → List (Nat × Nat)
  | 0 => []
  | n + 1 => [(start, n + 1)]

/-- The runs of `1`s of `n` bits `1` at `start` followed by `b`, found as R94 and R95 find them: see
`runs1_eq_scanRuns`. -/
def scanRuns (start : Nat) : Nat → List Bit → List (Nat × Nat)
  | n, [] => closeRun start n
  | n, true :: b => scanRuns start (n + 1) b
  | n, false :: b => closeRun start n ++ scanRuns (start + n + 1) 0 b

theorem scanRuns_zeros_append (g : Nat) (start : Nat) (b : List Bit) :
    scanRuns start 0 (List.replicate g false ++ b) = scanRuns (start + g) 0 b := by
  induction g generalizing start with
  | zero => rfl
  | succ g ih =>
    rw [List.replicate_succ, List.cons_append, scanRuns, ih, Nat.add_zero, Nat.add_assoc, Nat.add_comm 1 g]
    rfl

theorem scanRuns_ones_append (r start n : Nat) (b : List Bit) :
    scanRuns start n (List.replicate r true ++ b) = scanRuns start (n + r) b := by
  induction r generalizing n with
  | zero => rfl
  | succ r ih => rw [List.replicate_succ, List.cons_append, scanRuns, ih, Nat.add_right_comm, Nat.add_assoc]

/-- A run that the rest does not go on is closed, and the scan goes on behind it. -/
theorem scanRuns_of_head (hb : b[0]? ≠ some true) :
    scanRuns start n b = closeRun start n ++ scanRuns (start + n) 0 b := by
  cases b with
  | nil => simp [scanRuns, closeRun]
  | cons x b =>
    obtain rfl : x = false := by simpa using hb
    rfl

theorem closeRun_of_pos (hn : 0 < n) : closeRun start n = [(start, n)] := by
  cases n with
  | zero => cases hn
  | succ n => rfl

theorem runs1From_eq_scanRuns {turns at_ : Nat} (h : b.length < turns) : runs1From turns at_ b = scanRuns at_ 0 b := by
  induction turns generalizing at_ b with
  | zero => omega
  | succ turns ih =>
    obtain ⟨g, rfl, hruns⟩ | ⟨g, r, rest, hr, hrest, rfl, hruns⟩ := runs1From_succ_cases turns at_ b
    · rw [hruns, ← List.append_nil (List.replicate g false), scanRuns_zeros_append]
      rfl
    · have hlen : rest.length < turns := by
        simp only [List.length_append, List.length_replicate] at h
        omega
      rw [hruns, scanRuns_zeros_append, scanRuns_ones_append, Nat.zero_add, scanRuns_of_head hrest,
        closeRun_of_pos hr, ih hlen]
      rfl

/-- The scan finds the runs of R105. -/
theorem runs1_eq_scanRuns (b : List Bit) : runs1 b = scanRuns 0 0 b := runs1From_eq_scanRuns (Nat.lt_succ_self _)

/-! ## Long runs -/

theorem replicate_prefix_ones_zero_iff :
    List.replicate m true <+: List.replicate n true ++ false :: b ↔ m ≤ n := by
  induction n generalizing m with
  | zero => cases m <;> simp [List.replicate_succ]
  | succ n ih =>
    cases m with
    | zero => simp
    | succ m => rw [List.replicate_succ, List.replicate_succ, List.cons_append, List.cons_prefix_cons]; simp [ih]

/-- `1`s in a row stand before a `0` or behind it. -/
theorem replicate_infix_ones_zero_iff :
    List.replicate m true <:+: List.replicate n true ++ false :: b ↔ m ≤ n ∨ List.replicate m true <:+: b := by
  induction n with
  | zero =>
    rw [List.replicate_zero, List.nil_append, List.infix_cons_iff]
    exact or_congr_left (replicate_prefix_ones_zero_iff (n := 0))
  | succ n ih =>
    rw [List.replicate_succ, List.cons_append, List.infix_cons_iff, ih, ← List.cons_append, ← List.replicate_succ,
      replicate_prefix_ones_zero_iff, ← or_assoc]
    exact or_congr_left (by omega)

theorem exists_mem_closeRun_iff (hm : 0 < m) : (∃ r ∈ closeRun start n, m ≤ r.2) ↔ m ≤ n := by
  cases n with
  | zero => simp [closeRun, hm.ne']
  | succ n => simp [closeRun]

/-- The scan finds a run of `m` bits or more exactly if there are `m` bits `1` in a row. -/
theorem exists_mem_scanRuns_iff (hm : 0 < m) :
    (∃ r ∈ scanRuns start n b, m ≤ r.2) ↔ List.replicate m true <:+: List.replicate n true ++ b := by
  induction b generalizing start n with
  | nil =>
    rw [scanRuns, exists_mem_closeRun_iff hm, List.append_nil, List.infix_replicate_iff]
    simp
  | cons x b ih =>
    cases x with
    | true => rw [scanRuns, ih, List.replicate_succ', List.append_assoc]; rfl
    | false =>
      rw [scanRuns, replicate_infix_ones_zero_iff, ← exists_mem_closeRun_iff hm (start := start)]
      simp only [List.mem_append, or_and_right, exists_or]
      exact or_congr_right (ih (n := 0))

/-- A `1` behind `n` others belongs to a run that is longer than `n`. -/
theorem exists_mem_scanRuns_one : ∃ r ∈ scanRuns start n (true :: b), n + 1 ≤ r.2 :=
  (exists_mem_scanRuns_iff (n := n + 1) (b := b) n.succ_pos).2 (List.prefix_append ..).isInfix

/-! ## What `EncPL` makes of a list of runs -/

/-- What `EncPL` makes of the runs `rs` that are left, `out` being written (R105). -/
def encRuns (out : List Bit) (rs : List (Nat × Nat)) : PassResult :=
  if rs.any (fun r => decide (Config.plRunMax < r.2)) then .error .runLengthOverflow
  else .ok (out ++ rs.flatMap runRecordBits)

theorem encPL_of_long (h : 65535 < b.length) : encPL b = .error .lengthOverflow := if_pos h

theorem encPL_of_length_le (h : b.length ≤ 65535) :
    encPL b = encRuns (encode (.plHdr b.length)) (scanRuns 0 0 b) := by
  rw [← runs1_eq_scanRuns]
  exact if_neg (Nat.not_lt.mpr h)

theorem encRuns_nil : encRuns out [] = .ok out := by
  simp [encRuns]

theorem encRuns_cons (hn : n ≤ 255) :
    encRuns out ((start, n) :: rs) = encRuns (out ++ runRecordBits (start, n)) rs := by
  have hshort : decide (Config.plRunMax < n) = false := decide_eq_false (Nat.not_lt.mpr hn)
  rw [encRuns, List.any_cons, hshort, Bool.false_or, List.flatMap_cons, ← List.append_assoc, encRuns]

theorem encRuns_of_long (h : ∃ r ∈ rs, 256 ≤ r.2) : encRuns out rs = .error .runLengthOverflow := by
  obtain ⟨r, hr, hlong⟩ := h
  exact if_pos (List.any_eq_true.2 ⟨r, hr, decide_eq_true hlong⟩)

theorem encRuns_of_short (h : ∀ r ∈ rs, r.2 ≤ 255) : encRuns out rs = .ok (out ++ rs.flatMap runRecordBits) := by
  refine if_neg fun hany => ?_
  obtain ⟨r, hr, hlong⟩ := List.any_eq_true.1 hany
  exact absurd (h r hr) (Nat.not_le.mpr (of_decide_eq_true hlong))

end Sys2Proof.Machine
end

section
/-! PROOF. The rules of `ENC.PL`, phase by phase, and the whole pass (42_position_length.md R91 to R96). -/

namespace Sys2Proof.Machine

variable {s t : State}

/-! ## One step -/

/-- A number of `u<16>` fits a 16-bit register (10_state.md R13). -/
theorem toNat_ofNat_half {v : Nat} (h : v < 65536) : (BitVec.ofNat 16 v).toNat = v := Nat.mod_eq_of_lt h

/-- `EP_SCAN` with a payload bit left is the rule for that bit (R94). -/
theorem epScan_of_bit {b : Bit} (hne : s.rp ≠ s.srcLen) (hbit : s.src[s.rp]? = some b) :
    epScan s = epScanBit b (s.advance 1) := by
  have hread : rdbit s = some (b, s.advance 1) := (rdbit_eq_some s _ b).2 ⟨hne, hbit, rfl⟩
  rw [epScan, if_neg (mt (isExh_iff s).1 hne), hread]

theorem epScan_of_end (hend : s.rp = s.srcLen) : epScan s = epScanEnd s := if_pos ((isExh_iff s).2 hend)

/-- Each case of a step in `EP_SCAN` is what the machine does there (the converse of `epScan_cases`). -/
theorem EpScanStep.epScan_eq (h : EpScanStep s t) : epScan s = .next t := by
  cases h with
  | endOutside hend hout => simp [epScan_of_end hend, epScanEnd, hout]
  | endInside hend hin hf hrl =>
    have hrec := writeRunRecord_eq_next.2 ⟨hf, hrl, rfl⟩
    simp [epScan_of_end hend, epScanEnd, hin, hrec]
  | zeroOutside hne hbit hout => simp [epScan_of_bit hne hbit, epScanBit, hout]
  | zeroInside hne hbit hin hf hrl =>
    have hrec := writeRunRecord_eq_next (s := s.advance 1).2 ⟨hf, hrl, rfl⟩
    simp [epScan_of_bit hne hbit, epScanBit, hin, hrec]
  | oneOutside hne hbit hout => simp [epScan_of_bit hne hbit, epScanBit, countOne, hout, Config.plRunMax]
  | oneInside hne hbit hin hrl => simp [epScan_of_bit hne hbit, epScanBit, countOne, hin, hrl, Config.plRunMax]
  | oneTooMany hne hbit hin hrl =>
    simp [epScan_of_bit hne hbit, epScanBit, countOne, hin, hrl, Config.plRunMax, Machine.raise]

/-- `ENC.PL` in `EP_SCAN` takes the step of the bit or of the end it meets. -/
theorem EpScanStep.exec_eq (h : EpScanStep s t) (hp : s.phase = .epScan) : exec .encPl s = .next t :=
  (execEncPl_epScan s hp).trans h.epScan_eq

/-- Settles O21: the check compares `SRC_LEN` with the limit. -/
theorem encPlCheck : Obligations.EncPlCheck := by
  intro s hp
  exact ⟨fun h => (execEncPl_epCheck s hp).trans (epCheck_eq_next.2 (.inl ⟨h, rfl⟩)),
    fun h => (execEncPl_epCheck s hp).trans (epCheck_eq_next.2 (.inr ⟨h, rfl⟩))⟩

/-- Settles O22: the length fits its field, so the header is written; a pass has read nothing before it. -/
theorem encPlHeader : Obligations.EncPlHeader := by
  intro s hp hf hlen
  refine ⟨(execEncPl_epHdr s hp).trans (epHdr_eq_next.2 ⟨hf, Nat.lt_succ_of_le hlen, rfl⟩), fun hs => ?_⟩
  obtain ⟨hrp, -⟩ := hs.opening_empty (by rw [hp]; rfl)
  exact hrp

/-- Settles O23: one case of `EpScanStep` for each clause. -/
theorem encPlScanBit : Obligations.EncPlScanBit := by
  intro s b hp hf hlt hbit
  have hne : s.rp ≠ s.srcLen := hlt.ne
  refine ⟨?oneOutside, ?oneTooMany, ?oneInside, ?zeroOutside, ?zeroInside⟩
  case oneOutside =>
    rintro rfl hout hrp
    exact ⟨(EpScanStep.oneOutside hne hbit hout).exec_eq hp, toNat_ofNat_half (Nat.lt_succ_of_le hrp)⟩
  case oneTooMany => rintro rfl hin hrl; exact (EpScanStep.oneTooMany hne hbit hin hrl).exec_eq hp
  case oneInside => rintro rfl hin hrl; exact (EpScanStep.oneInside hne hbit hin hrl).exec_eq hp
  case zeroOutside => rintro rfl hout; exact (EpScanStep.zeroOutside hne hbit hout).exec_eq hp
  case zeroInside =>
    rintro rfl hin hrl
    exact (EpScanStep.zeroInside hne hbit hin hf (Nat.lt_succ_of_le hrl)).exec_eq hp

/-- Settles O24: the two cases of `EpScanStep` at the end of the source. -/
theorem encPlScanEnd : Obligations.EncPlScanEnd := by
  intro s hp hf hend
  exact ⟨fun hin hrl => (EpScanStep.endInside hend hin hf (Nat.lt_succ_of_le hrl)).exec_eq hp,
    fun hout => (EpScanStep.endOutside hend hout).exec_eq hp⟩

/-! ## The whole pass -/

/-- The runs that `EP_SCAN` has not written yet: of the current run, if there is one, and of the bits that are left. -/
def State.pendingRuns (s : State) : List (Nat × Nat) :=
  if s.inRun then scanRuns s.rs.toNat s.rl (s.src.drop s.rp) else scanRuns s.rp 0 (s.src.drop s.rp)

theorem pendingRuns_of_out (h : s.inRun = false) : s.pendingRuns = scanRuns s.rp 0 (s.src.drop s.rp) := by
  simp [State.pendingRuns, h]

theorem pendingRuns_of_in (h : s.inRun = true) : s.pendingRuns = scanRuns s.rs.toNat s.rl (s.src.drop s.rp) := by
  simp [State.pendingRuns, h]

theorem drop_rp_of_bit {b : Bit} (hbit : s.src[s.rp]? = some b) : s.src.drop s.rp = b :: s.src.drop (s.rp + 1) := by
  obtain ⟨h, rfl⟩ := List.getElem?_eq_some_iff.1 hbit
  exact List.drop_eq_getElem_cons h

theorem Running.drop_rp_of_end {p : Phase} (r : Running p s) (hend : s.rp = s.srcLen) : s.src.drop s.rp = [] :=
  List.drop_of_length_le (by rw [r.src_length, hend])

/-- The scan delivers the records of the runs that are pending, behind what is written. -/
theorem Alone.delivers_epScan (a : Alone .epScan s) :
    Delivers (encRuns s.snk s.pendingRuns) (s.srcLen - s.rp + 2) s := by
  induction hn : s.srcLen - s.rp using Nat.strong_induction_on generalizing s with | _ n ih
  subst hn
  obtain ⟨hlen, hrun, -⟩ := a.at_phase
  have hrp := a.rp_le
  refine a.delivers_of_rule (by decide) (by decide) fun t h alone => ?_
  rw [phaseRule, a.phase] at h
  -- a step that reads one bit, after which the pass still delivers what it did before
  have scanned (ht : t.phase = .epScan) (hstep : t.srcLen = s.srcLen ∧ t.rp = s.rp + 1) (hne : s.rp ≠ s.srcLen)
      (hruns : encRuns t.snk t.pendingRuns = encRuns s.snk s.pendingRuns) :
      Delivers (encRuns s.snk s.pendingRuns) (s.srcLen - s.rp + 1) t := by
    obtain ⟨hsrc, htrp⟩ := hstep
    rw [← hruns]
    exact (ih _ (by omega) (alone _ ht (by decide)) rfl).mono (by omega)
  cases epScan_cases h with
  | endOutside hend hout =>
    rw [pendingRuns_of_out hout, a.drop_rp_of_end hend, scanRuns, closeRun, encRuns_nil]
    exact (alone .finish rfl (by decide)).delivers_ok (a.no_error (by decide))
  | endInside hend hin hf hrl =>
    obtain ⟨hpos, hmax, -⟩ := hrun hin
    rw [pendingRuns_of_in hin, a.drop_rp_of_end hend, scanRuns, closeRun_of_pos hpos, encRuns_cons hmax, encRuns_nil]
    exact (alone .finish rfl (by decide)).delivers_ok (a.no_error (by decide))
  | zeroOutside hne hbit hout =>
    refine scanned a.phase ⟨rfl, rfl⟩ hne ?_
    rw [pendingRuns_of_out (s := s.advance 1) hout, pendingRuns_of_out hout, drop_rp_of_bit hbit]
    rfl
  | zeroInside hne hbit hin hf hrl =>
    obtain ⟨hpos, hmax, hcur⟩ := hrun hin
    refine scanned a.phase ⟨rfl, rfl⟩ hne ?_
    rw [pendingRuns_of_in hin, drop_rp_of_bit hbit, scanRuns, closeRun_of_pos hpos, hcur, List.singleton_append,
      encRuns_cons hmax]
    rfl
  | oneOutside hne hbit hout =>
    have hrs : (BitVec.ofNat 16 s.rp).toNat = s.rp := toNat_ofNat_half (by omega)
    refine scanned a.phase ⟨rfl, rfl⟩ hne ?_
    rw [pendingRuns_of_out hout, drop_rp_of_bit hbit, scanRuns, pendingRuns_of_in rfl]
    simp [hrs]
  | oneInside hne hbit hin h255 =>
    refine scanned a.phase ⟨rfl, rfl⟩ hne ?_
    rw [pendingRuns_of_in (s := (s.advance 1).setRl _) hin, pendingRuns_of_in hin, drop_rp_of_bit hbit]
    rfl
  | oneTooMany hne hbit hin h255 =>
    have hlong : ∃ r ∈ s.pendingRuns, s.rl + 1 ≤ r.2 := by
      rw [pendingRuns_of_in hin, drop_rp_of_bit hbit]
      exact exists_mem_scanRuns_one
    rw [h255] at hlong
    rw [encRuns_of_long hlong]
    exact (alone .finish rfl (by decide)).delivers_error rfl (by decide)

/-- The header is written before any run is met (R93). -/
theorem Alone.delivers_epHdr (a : Alone .epHdr s) : Delivers (encPL s.src) (s.srcLen + 3) s := by
  obtain ⟨hrp, hsnk, hlen⟩ := a.at_phase
  refine a.delivers_of_rule (by decide) (by decide) fun t h alone => ?_
  rw [phaseRule, a.phase] at h
  obtain ⟨-, -, rfl⟩ := epHdr_eq_next.1 h
  have hruns : ((s.append (encode (.plHdr s.srcLen))).leaveRun.goto .epScan).pendingRuns = scanRuns 0 0 s.src := by
    rw [pendingRuns_of_out rfl]
    simp [hrp]
  have hscan := (alone .epScan rfl (by decide)).delivers_epScan
  rw [hruns] at hscan
  rw [encPL_of_length_le (a.src_length.trans_le hlen), a.src_length]
  simpa [hsnk, hrp] using hscan

/-- The check lets a payload through that the header can state (R92). -/
theorem Alone.delivers_epCheck (a : Alone .epCheck s) : Delivers (encPL s.src) (s.srcLen + 4) s := by
  refine a.delivers_of_rule (by decide) (by decide) fun t h alone => ?_
  rw [phaseRule, a.phase] at h
  obtain ⟨hlen, rfl⟩ | ⟨-, rfl⟩ := epCheck_eq_next.1 h
  · rw [encPL_of_long (hlen.trans_eq a.src_length.symm)]
    exact (alone .finish rfl (by decide)).delivers_error rfl (by decide)
  · exact (alone .epHdr rfl (by decide)).delivers_epHdr

/-- Settles O43: the pass checks the length, writes the header, scans the payload bit by bit as `scanRuns` does, and
finishes. -/
theorem encPlPass : Obligations.EncPlPass :=
  passComputes_of_begin (m := .compress) (st := .positionLength) execEncPl_idle rfl (by decide)
    fun _ a => a.delivers_epCheck

end Sys2Proof.Machine
end

section
/-! PROOF. The records of a strategy A stream as `DecPL` reads them, and the round trip of strategy A
(42_position_length.md R102, R105, R106). -/

namespace Sys2Proof.Machine

variable {b s out : List Bit} {turns len start n k : Nat}

/-! ## One record -/

/-- `out` filled with `0`s up to `k` bits (R100, R102). -/
def filled (k : Nat) (out : List Bit) : List Bit := out ++ List.replicate (k - out.length) false

theorem filled_of_length_eq (h : out.length = k) : filled k out = out := by
  simp [filled, h]

theorem filled_succ (h : out.length ≤ k) : filled (k + 1) out = filled k out ++ [false] := by
  rw [filled, Nat.sub_add_comm h, List.replicate_succ', ← List.append_assoc, filled]

theorem length_filled (h : out.length ≤ k) : (filled k out).length = k := by
  simp [filled, h]

/-- The start field of the record that a stream begins with. -/
def recordStart (s : List Bit) : Nat := val (s.take 16)

/-- The length field of the record that a stream begins with. -/
def recordLength (s : List Bit) : Nat := val ((s.drop 16).take 8)

theorem recordStart_lt (s : List Bit) : recordStart s < 65536 := val_lt_of_length_le _ 16 (List.length_take_le ..)

theorem decPLFrom_nil : decPLFrom turns len [] out = .ok (filled len out) := by
  unfold decPLFrom
  exact if_pos rfl

theorem decPLFrom_of_short (hne : s ≠ []) (h : s.length < 24) :
    decPLFrom turns len s out = .error .truncatedStream := by
  rw [decPLFrom, if_neg hne, if_pos h]

theorem ne_nil_of_record (h : 24 ≤ s.length) : s ≠ [] := by
  rintro rfl
  simp at h

theorem decPLFrom_of_corrupt (h : 24 ≤ s.length)
    (hcause : recordStart s < out.length ∨ len < recordStart s + recordLength s) :
    decPLFrom turns len s out = .error .corruptStream := by
  rw [decPLFrom, if_neg (ne_nil_of_record h), if_neg (Nat.not_lt.mpr h)]
  by_cases hstart : recordStart s < out.length
  · exact if_pos hstart
  · exact (if_neg hstart).trans (if_pos (hcause.resolve_left hstart))

theorem decPLFrom_of_run (h : 24 ≤ s.length) (hstart : out.length ≤ recordStart s)
    (hlen : recordStart s + recordLength s ≤ len) :
    decPLFrom (turns + 1) len s out = decPLFrom turns len (s.drop 24)
      (filled (recordStart s) out ++ List.replicate (recordLength s) true) := by
  rw [decPLFrom, if_neg (ne_nil_of_record h), if_neg (Nat.not_lt.mpr h)]
  exact (if_neg (Nat.not_lt.mpr hstart)).trans (if_neg (Nat.not_lt.mpr hlen))

/-- Settles O58: no record takes the output past the stated length, and the tail takes it there. -/
theorem decPlLength : Obligations.DecPlLength := by
  intro s out h
  unfold decPL at h
  split at h
  next => cases h
  next hs => exact ⟨Nat.not_lt.mp hs, length_decPLFrom (Nat.zero_le _) h⟩

/-! ## The records that `EncPL` writes -/

section
variable (hstart : start < 65536) (hn : n ≤ 255) (rest : List Bit)

include hstart in
theorem recordStart_runRecordBits : recordStart (runRecordBits (start, n) ++ rest) = start := by
  rw [recordStart, runRecordBits, List.append_assoc]
  exact (congrArg val (List.take_left' (length_bits ..))).trans (val_bits 16 start hstart)

include hn in
theorem recordLength_runRecordBits : recordLength (runRecordBits (start, n) ++ rest) = n := by
  rw [recordLength, runRecordBits, List.append_assoc, Config.plStartW, List.drop_left' (length_bits ..)]
  exact (congrArg val (List.take_left' (length_bits ..))).trans (val_bits 8 n (Nat.lt_succ_of_le hn))

include hstart hn in
/-- A record that was written is read as its run (R100, R105). -/
theorem decPLFrom_runRecordBits (hout : out.length ≤ start) (hlen : start + n ≤ len) :
    decPLFrom (turns + 1) len (runRecordBits (start, n) ++ rest) out =
      decPLFrom turns len rest (filled start out ++ List.replicate n true) := by
  have hs := recordStart_runRecordBits (n := n) hstart rest
  have hl := recordLength_runRecordBits (start := start) hn rest
  have hlong : 24 ≤ (runRecordBits (start, n) ++ rest).length := by simp [length_runRecordBits]
  rw [decPLFrom_of_run hlong (by rwa [hs]) (by rwa [hs, hl]), hs, hl, List.drop_left' (length_runRecordBits _)]

end

/-- A run that was closed is read, whether it was empty or not. -/
theorem decPLFrom_closeRun (turns : Nat) (hn : n ≤ 255) (hout : out.length ≤ start) (hlen : start + n ≤ len)
    (hmax : len ≤ 65535) (rest : List Bit) :
    ∃ out', out'.length ≤ start + n ∧ filled (start + n) out' = filled start out ++ List.replicate n true ∧
      decPLFrom (turns + (closeRun start n).length) len ((closeRun start n).flatMap runRecordBits ++ rest) out =
        decPLFrom turns len rest out' := by
  cases n with
  | zero => exact ⟨out, hout, by simp, rfl⟩
  | succ n =>
    have hl : (filled start out ++ List.replicate (n + 1) true).length = start + (n + 1) := by simp [length_filled hout]
    refine ⟨_, hl.le, filled_of_length_eq hl, ?_⟩
    rw [closeRun, List.flatMap_singleton]
    exact decPLFrom_runRecordBits (by omega) hn rest hout hlen

theorem le_of_closeRun (h : ∀ r ∈ closeRun start n, r.2 ≤ 255) : n ≤ 255 := by
  cases n with
  | zero => exact Nat.zero_le _
  | succ n => simpa [closeRun] using h

/-- The records of a scan, read at the stated length, give back the bits that were scanned. -/
theorem decPLFrom_scanRuns (hlen : start + n + b.length = len) (hmax : len ≤ 65535)
    (hshort : ∀ r ∈ scanRuns start n b, r.2 ≤ 255) (hout : out.length ≤ start) :
    decPLFrom (turns + (scanRuns start n b).length) len ((scanRuns start n b).flatMap runRecordBits) out =
      .ok (filled start out ++ (List.replicate n true ++ b)) := by
  induction b generalizing start n out with
  | nil =>
    obtain ⟨out', -, hfill, hread⟩ := decPLFrom_closeRun turns (le_of_closeRun hshort) hout hlen.le hmax []
    rw [List.append_nil] at hread
    rw [scanRuns, hread, decPLFrom_nil, ← hlen, List.append_nil, ← hfill]
    rfl
  | cons x b ih =>
    simp only [List.length_cons] at hlen
    cases x with
    | true =>
      rw [scanRuns, ih (by omega) hshort hout, List.replicate_succ', List.append_assoc]
      rfl
    | false =>
      rw [scanRuns, List.forall_mem_append] at hshort
      obtain ⟨hclose, hrest⟩ := hshort
      obtain ⟨out', hout', hfill, hread⟩ :=
        decPLFrom_closeRun (turns + (scanRuns (start + n + 1) 0 b).length) (le_of_closeRun hclose) hout
          (show start + n ≤ len by omega) hmax ((scanRuns (start + n + 1) 0 b).flatMap runRecordBits)
      rw [scanRuns, List.length_append, List.flatMap_append, Nat.add_comm (closeRun start n).length, ← Nat.add_assoc,
        hread, ih (by omega) hrest (by omega), filled_succ hout', hfill]
      simp

/-- What `EncPL` writes of a payload whose runs all fit, `DecPL` reads as that payload. -/
theorem decPL_of_short (hlen : b.length ≤ 65535) (hshort : ∀ r ∈ scanRuns 0 0 b, r.2 ≤ 255) :
    decPL (encode (.plHdr b.length) ++ (scanRuns 0 0 b).flatMap runRecordBits) = .ok b := by
  have hhdr : (encode (.plHdr b.length)).length = 16 := length_bits ..
  have hval : val (encode (.plHdr b.length)) = b.length := val_bits 16 _ (Nat.lt_succ_of_le hlen)
  have hrecs : ((scanRuns 0 0 b).flatMap runRecordBits).length = (scanRuns 0 0 b).length * 24 := by
    simp [List.length_flatMap, length_runRecordBits]
  have hturns : (scanRuns 0 0 b).length ≤
      (encode (.plHdr b.length) ++ (scanRuns 0 0 b).flatMap runRecordBits).length := by
    rw [List.length_append]; omega
  obtain ⟨turns, hfuel⟩ := Nat.exists_eq_add_of_le' hturns
  rw [decPL, if_neg (by simp [hhdr]), hfuel, List.take_left' hhdr, List.drop_left' hhdr, hval,
    decPLFrom_scanRuns (Nat.zero_add _) hlen hshort le_rfl]
  rfl

/-- Settles O47: 256 `1`s in a row are what makes a run too long for its field; without them the records read back as
the payload. -/
theorem roundTripA : Obligations.RoundTripA := by
  intro b
  have hlong := exists_mem_scanRuns_iff (start := 0) (n := 0) (b := b) (m := 256) (by decide)
  rw [List.replicate_zero, List.nil_append] at hlong
  refine ⟨fun hlen hno => ?_, encPL_of_long, fun hlen hin => ?_⟩
  · have hshort : ∀ r ∈ scanRuns 0 0 b, r.2 ≤ 255 := fun r hr =>
      Nat.le_of_not_lt fun h => hno (hlong.1 ⟨r, hr, h⟩)
    exact ⟨_, (encPL_of_length_le hlen).trans (encRuns_of_short hshort), decPL_of_short hlen hshort⟩
  · rw [encPL_of_length_le hlen, encRuns_of_long (hlong.2 hin)]

end Sys2Proof.Machine
end

section
/-! PROOF. The records of `DEC.PL`, its phases and the whole pass (42_position_length.md R98 to R103). -/

namespace Sys2Proof.Machine

variable {s t : State} {p : Phase} {start length turns k : Nat}

/-! ## One step -/

/-- With its first field there only, a record reads that field and then its shortfall (R100). -/
theorem execPlRun_of_start (hstart : 16 ≤ s.srcLen - s.rp) (hleft : s.srcLen - s.rp < 24) :
    execPlRun start length s = .next (((s.advance 16).setRs start).raise .truncatedStream) := by
  have hshort : ((s.advance 16).setRs start).srcLen - ((s.advance 16).setRs start).rp < 8 := by simp; omega
  rw [execPlRun, readField_eq s _ _ (by decide) (by decide), Config.plStartW, if_neg (Nat.not_lt.mpr hstart),
    readField_eq _ _ _ (by decide) (by decide)]
  exact if_pos hshort

/-- With both fields there, a record reads them and goes on to its checks (R100). -/
theorem execPlRun_of_complete (h : 24 ≤ s.srcLen - s.rp) :
    execPlRun start length s = runRecordBody (((s.advance 24).setRs start).setRl length) := by
  have hstart : ¬ s.srcLen - s.rp < 16 := by omega
  have hlength : ¬ ((s.advance 16).setRs start).srcLen - ((s.advance 16).setRs start).rp < 8 := by simp; omega
  rw [execPlRun, readField_eq s _ _ (by decide) (by decide), Config.plStartW, if_neg hstart,
    readField_eq _ _ _ (by decide) (by decide), Config.plRunW, if_neg hlength]
  rfl

theorem runRecordBody_of_corrupt (h : s.rs.toNat < s.wp ∨ s.tl.toNat < s.rs.toNat + s.rl) :
    runRecordBody s = .next (s.raise .corruptStream) := by
  rw [runRecordBody]
  by_cases hstart : s.rs.toNat < s.wp
  · exact if_pos hstart
  · exact (if_neg hstart).trans (if_pos (h.resolve_left hstart))

theorem runRecordBody_of_legal (hwp : s.wp ≤ s.rs.toNat) (htl : s.rs.toNat + s.rl ≤ s.tl.toNat)
    (hf : s.fin = false) :
    runRecordBody s =
      .next (s.append (List.replicate (s.rs.toNat - s.wp) false ++ List.replicate s.rl true)) := by
  rw [runRecordBody, if_neg (Nat.not_lt.mpr hwp), if_neg (Nat.not_lt.mpr htl), emit_next s _ _ hf, andThen_next,
    emit_next (s.append _) _ _ hf, append_append]

/-- Each case of `PL.RUN` is what the machine does there (the converse of `execPlRun_cases`). -/
theorem PlRunStep.execPlRun_eq (h : PlRunStep start length s t) (hf : s.fin = false) :
    execPlRun start length s = .next t := by
  cases h with
  | noStart hleft => exact (readField_eq s _ _ (by decide) (by decide)).trans (if_pos hleft)
  | noLength hstart hleft => exact execPlRun_of_start hstart hleft
  | corrupt hleft hcause => exact (execPlRun_of_complete hleft).trans (runRecordBody_of_corrupt hcause)
  | run hleft hwp htl => exact (execPlRun_of_complete hleft).trans (runRecordBody_of_legal hwp htl hf)

/-- Settles O25: a shortfall is an exception, and a header that is there is the stated length. -/
theorem plHeaderRecord : Obligations.PlHeaderRecord := by
  intro s len hlen
  exact ⟨fun h => execPlHdr_eq_next.2 (.inl ⟨h, rfl⟩),
    fun h => ⟨_, execPlHdr_eq_next.2 (.inr ⟨h, rfl⟩), toNat_ofNat_half hlen, rfl⟩,
    fun hs hp => hs.opening_empty (by rw [hp]; rfl)⟩

/-- Settles O26: one case of `PlRunStep` for each clause. -/
theorem plRunRecord : Obligations.PlRunRecord := by
  intro s start length hs hl hf
  have hrs : (BitVec.ofNat 16 start).toNat = start := toNat_ofNat_half hs
  refine ⟨hrs, fun h => (PlRunStep.noStart h).execPlRun_eq hf,
    fun hstart hleft => (PlRunStep.noLength hstart hleft).execPlRun_eq hf,
    fun h hcause => (PlRunStep.corrupt h (by rwa [hrs])).execPlRun_eq hf, fun h hwp htl => ?_⟩
  refine ⟨_, (PlRunStep.run h (by rwa [hrs]) (by rwa [hrs])).execPlRun_eq hf, ?_, ?_⟩
  · simp [hrs, State.wp]; omega
  · rw [hrs, List.append_assoc]
    rfl

/-- Settles O27: the record phase ends with the source, and the tail takes what is missing of the stated length. -/
theorem decPlEnd : Obligations.DecPlEnd := by
  intro s
  refine ⟨fun hp hend => ?_, fun hp hf hwp => ?_⟩
  · exact (execDecPl_dpRun s hp).trans (if_pos ((isExh_iff s).2 hend))
  · refine ⟨(s.append (List.replicate (s.tl.toNat - s.wp) false)).goto .finish, ?_, ?_, rfl⟩
    · exact (execDecPl_dpTail s hp).trans (by rw [dpTail, emit_next s _ _ hf, andThen_next])
    · simp [State.wp]; omega

/-! ## The whole pass -/

/-- The tail delivers the sink filled up to the stated length (R102). -/
theorem Alone.delivers_dpTail (a : Alone .dpTail s) : Delivers (.ok (filled s.tl.toNat s.snk)) (k + 2) s := by
  refine a.delivers_of_rule (by decide) (by decide) fun t h alone => ?_
  rw [phaseRule, a.phase] at h
  obtain rfl := dpTail_eq h
  exact (alone .finish rfl (by decide)).delivers_ok (a.no_error (by decide))

/-- Within a pass a record that is complete is read from the source itself (R72). -/
theorem Running.window_eq (r : Running p s) {w : Nat} (h : w ≤ s.srcLen - s.rp) :
    s.window w = (s.src.drop s.rp).take w := by
  have hsrc : s.src.take s.srcLen = s.src := List.take_of_length_le r.src_length.le
  rw [window_of_complete, hsrc]
  rw [hsrc, List.length_drop, r.src_length]
  exact h

/-- `DP_RUN` with bits left runs the record due (R100). -/
theorem dpRun_of_left (hne : s.rp ≠ s.srcLen) :
    dpRun s = execPlRun (recordStart (s.window 24)) (recordLength (s.window 24)) s :=
  if_neg (mt (isExh_iff s).1 hne)

theorem recordStart_take (l : List Bit) : recordStart (l.take 24) = recordStart l := by
  rw [recordStart, List.take_take]; rfl

theorem recordLength_take (l : List Bit) : recordLength (l.take 24) = recordLength l := by
  rw [recordLength, List.drop_take, List.take_take]; rfl

/-- With bits left, but not a whole record, `DP_RUN` meets a shortfall (R100). -/
theorem dpRun_of_short (hne : s.rp ≠ s.srcLen) (hleft : s.srcLen - s.rp < 24) (h : dpRun s = .next t) :
    ∃ u : State, t = u.raise .truncatedStream := by
  cases execPlRun_cases (dpRun_of_left hne ▸ h) with
  | noStart => exact ⟨_, rfl⟩
  | noLength => exact ⟨_, rfl⟩
  | corrupt h24 => omega
  | run h24 => omega

/-- With a whole record left, `DP_RUN` checks it and emits its run: here its fields are the source's own bits (R100). -/
theorem Running.dpRun_record_cases (r : Running p s) (hleft : 24 ≤ s.srcLen - s.rp) (h : dpRun s = .next t)
    (hstart : recordStart (s.src.drop s.rp) = start) (hlength : recordLength (s.src.drop s.rp) = length) :
    ((start < s.snk.length ∨ s.tl.toNat < start + length) ∧ ∃ u : State, t = u.raise .corruptStream) ∨
    (s.snk.length ≤ start ∧ start + length ≤ s.tl.toNat ∧
      t = (((s.advance 24).setRs start).setRl length).append
        (List.replicate (start - s.snk.length) false ++ List.replicate length true)) := by
  subst hstart hlength
  rw [dpRun_of_left (by omega), r.window_eq hleft, recordStart_take, recordLength_take] at h
  have hrs := toNat_ofNat_half (recordStart_lt (s.src.drop s.rp))
  cases execPlRun_cases h with
  | noStart h16 => omega
  | noLength h16 h24 => omega
  | corrupt h24 hcause =>
    rw [hrs] at hcause
    exact .inl ⟨hcause, _, rfl⟩
  | run h24 hwp htl =>
    rw [hrs] at hwp htl ⊢
    exact .inr ⟨hwp, htl, rfl⟩

/-- The record phase delivers what `DecPL` reads from the bits that are left, behind what is emitted. -/
theorem Alone.delivers_dpRun {len : Nat} {rest out : List Bit} (a : Alone .dpRun s) (htl : s.tl.toNat = len)
    (hrest : s.src.drop s.rp = rest) (hout : s.snk = out) (hturns : rest.length ≤ turns) :
    Delivers (decPLFrom turns len rest out) (rest.length + 3) s := by
  induction turns using Nat.strong_induction_on generalizing s rest out with | _ turns ih
  have hleft : rest.length = s.srcLen - s.rp := by rw [← hrest, List.length_drop, a.src_length]
  have hrp := a.rp_le
  refine a.delivers_of_rule (by decide) (by decide) fun t h alone => ?_
  rw [phaseRule, a.phase] at h
  by_cases hend : s.rp = s.srcLen
  · obtain rfl : s.goto .dpTail = t := by
      simpa [dpRun, (isExh_iff s).2 hend] using h
    rw [← hrest, a.drop_rp_of_end hend, decPLFrom_nil, ← htl, ← hout]
    exact (alone .dpTail rfl (by decide)).delivers_dpTail
  by_cases hshort : s.srcLen - s.rp < 24
  · obtain ⟨u, rfl⟩ := dpRun_of_short hend hshort h
    rw [decPLFrom_of_short (List.ne_nil_of_length_pos (by omega)) (by omega)]
    exact (alone .finish rfl (by decide)).delivers_error rfl (by decide)
  obtain ⟨hcause, u, rfl⟩ | ⟨hstart, hlen, rfl⟩ :=
    a.dpRun_record_cases (Nat.le_of_not_lt hshort) h (congrArg recordStart hrest) (congrArg recordLength hrest)
  · rw [decPLFrom_of_corrupt (by omega) (hout ▸ htl ▸ hcause)]
    exact (alone .finish rfl (by decide)).delivers_error rfl (by decide)
  · obtain ⟨turns, rfl⟩ : ∃ n, turns = n + 1 := Nat.exists_eq_succ_of_ne_zero (by omega)
    have hnext : s.src.drop (s.rp + 24) = rest.drop 24 := by rw [← hrest, List.drop_drop]
    rw [decPLFrom_of_run (by omega) (hout ▸ hstart) (htl ▸ hlen), ← hout, filled, List.append_assoc]
    exact (ih turns (Nat.lt_succ_self _) (alone .dpRun a.phase (by decide)) htl hnext rfl
      (by rw [List.length_drop]; omega)).mono (by rw [List.length_drop]; omega)

/-- The header delivers `DecPL` of the source: it is the first thing in it (R99). -/
theorem Alone.delivers_dpHdr (a : Alone .dpHdr s) : Delivers (decPL s.src) (s.srcLen + 4) s := by
  obtain ⟨hrp, hsnk⟩ := a.at_phase
  have hsrc := a.src_length
  refine a.delivers_of_rule (by decide) (by decide) fun t h alone => ?_
  rw [phaseRule, a.phase] at h
  obtain ⟨hleft, rfl⟩ | ⟨hleft, rfl⟩ := execPlHdr_eq_next.1 h
  · rw [decPL, if_pos (by omega)]
    exact (alone .finish rfl (by decide)).delivers_error rfl (by decide)
  · have hfield : val ((s.window 16).take 16) = val (s.src.take 16) := by
      rw [a.window_eq hleft, hrp, List.drop_zero, List.take_take, min_self]
    have htl : (BitVec.ofNat 16 (val ((s.window 16).take 16))).toNat = val (s.src.take 16) :=
      (toNat_ofNat_half (val_lt_of_length_le _ 16 (List.length_take_le ..))).trans hfield
    have hrest : s.src.drop (s.rp + 16) = s.src.drop 16 := by rw [hrp]
    rw [decPL, if_neg (by omega)]
    exact ((alone .dpRun rfl (by decide)).delivers_dpRun htl hrest hsnk (by simp)).mono (by simp; omega)

/-- Settles O44: the pass reads the header and then one record a step, as the recursion of `DecPL` does, and fills the
tail. -/
theorem decPlPass : Obligations.DecPlPass :=
  passComputes_of_begin (m := .expand) (st := .positionLength) execDecPl_idle rfl (by decide)
    fun _ a => a.delivers_dpHdr

end Sys2Proof.Machine
end

section
/-! PROOF. The alternating runs of a sequence, and the round trip of strategy B (43_alternating.md R118 to R121). -/

namespace Sys2Proof.Machine

variable {b s out : List Bit} {v f : Bit} {n turns : Nat}

/-! ## The runs as `ENC.ARL` meets them -/

/-- The alternating runs of `n` bits `v` followed by `b`, found one bit at a time as R112 and R113 find them: see
`altRuns_eq_scanAltRuns`. -/
def scanAltRuns : Bit → Nat → List Bit → List Nat
  | _, n, [] => if 0 < n then [n] else []
  | v, n, x :: b => if x = v then scanAltRuns v (n + 1) b else n :: scanAltRuns x 1 b

theorem scanAltRuns_same : scanAltRuns v n (v :: b) = scanAltRuns v (n + 1) b := if_pos rfl

theorem scanAltRuns_other {x : Bit} (h : x ≠ v) : scanAltRuns v n (x :: b) = n :: scanAltRuns x 1 b := if_neg h

/-- A counted bit belongs to the run in front of it. -/
theorem replicate_append_cons_same (v : Bit) (n : Nat) (b : List Bit) :
    List.replicate n v ++ v :: b = List.replicate (n + 1) v ++ b := by
  rw [List.replicate_succ', List.append_assoc, List.singleton_append]

theorem altRunsFrom_nil (turns : Nat) (v : Bit) : altRunsFrom turns v [] = [] := by
  cases turns <;> rfl

/-- The leading run is cut off whole: what follows it starts with the other bit (R120). -/
theorem altRunsFrom_replicate_append (hne : List.replicate n v ++ b ≠ []) (hb : b[0]? ≠ some v) :
    altRunsFrom (turns + 1) v (List.replicate n v ++ b) = n :: altRunsFrom turns (!v) b := by
  have htake : b.takeWhile (· == v) = [] := by cases b <;> simp_all
  have hdrop : b.dropWhile (· == v) = b := by cases b <;> simp_all
  rw [altRunsFrom, if_neg hne, List.takeWhile_append_of_pos (by simp), List.dropWhile_append_of_pos (by simp), htake,
    hdrop, List.append_nil, List.length_replicate]

theorem altRunsFrom_eq_scanAltRuns (h : b.length < turns) :
    altRunsFrom turns v (List.replicate n v ++ b) = scanAltRuns v n b := by
  obtain ⟨turns, rfl⟩ := Nat.exists_eq_succ_of_ne_zero (Nat.ne_zero_of_lt h)
  induction b generalizing turns v n with
  | nil =>
    cases n with
    | zero => rfl
    | succ n => rw [altRunsFrom_replicate_append (by simp) (by simp), altRunsFrom_nil]; rfl
  | cons x b ih =>
    have hlen : b.length < turns := Nat.lt_of_succ_lt_succ h
    by_cases hx : x = v
    · subst hx
      rw [scanAltRuns_same, replicate_append_cons_same, ih turns (hlen.trans (Nat.lt_succ_self _))]
    · obtain ⟨turns, rfl⟩ := Nat.exists_eq_succ_of_ne_zero (Nat.ne_zero_of_lt hlen)
      rw [scanAltRuns_other hx, altRunsFrom_replicate_append (by simp) (by simpa using hx), ← Bool.eq_not_of_ne hx,
        ← ih turns hlen]
      rfl

/-- The scan finds the runs of R120. -/
theorem altRuns_eq_scanAltRuns (b : List Bit) : altRuns b = scanAltRuns false 0 b :=
  altRunsFrom_eq_scanAltRuns (n := 0) (Nat.lt_succ_self _)

/-! ## The runs partition the sequence -/

theorem length_alternate (v : Bit) (rs : List Nat) : (alternate v rs).length = rs.sum := by
  induction rs generalizing v with
  | nil => rfl
  | cons r rs ih => rw [alternate, List.length_append, List.length_replicate, ih, List.sum_cons]

theorem alternate_scanAltRuns (v : Bit) (n : Nat) (b : List Bit) :
    alternate v (scanAltRuns v n b) = List.replicate n v ++ b := by
  induction b generalizing v n with
  | nil => cases n <;> simp [scanAltRuns, alternate]
  | cons x b ih =>
    by_cases hx : x = v
    · subst hx
      rw [scanAltRuns_same, ih, replicate_append_cons_same]
    · rw [scanAltRuns_other hx, alternate, ← Bool.eq_not_of_ne hx, ih]
      rfl

theorem alternate_altRuns (b : List Bit) : alternate false (altRuns b) = b := by
  rw [altRuns_eq_scanAltRuns, alternate_scanAltRuns]
  rfl

/-- A run that has begun, and every run behind it, has a bit. -/
theorem pos_of_mem_scanAltRuns (hn : 1 ≤ n) : ∀ r ∈ scanAltRuns v n b, 1 ≤ r := by
  induction b generalizing v n with
  | nil => simpa [scanAltRuns] using fun _ => hn
  | cons x b ih =>
    by_cases hx : x = v
    · subst hx
      exact scanAltRuns_same ▸ ih (Nat.le_add_left 1 n)
    · exact scanAltRuns_other hx ▸ List.forall_mem_cons.2 ⟨hn, ih le_rfl⟩

/-- Only the first run can be empty. -/
theorem pos_of_mem_tail_altRuns (b : List Bit) : ∀ r ∈ (altRuns b).tail, 1 ≤ r := by
  rw [altRuns_eq_scanAltRuns]
  cases b with
  | nil => nofun
  | cons x b =>
    cases x with
    | false => exact fun r hr => pos_of_mem_scanAltRuns le_rfl r (List.mem_of_mem_tail hr)
    | true => exact pos_of_mem_scanAltRuns le_rfl

/-- Settles O52: the runs put back together are the sequence; the sum and the emptiness follow from that. -/
theorem altRunsPartition : Obligations.AltRunsPartition := by
  intro b
  have hback := alternate_altRuns b
  refine ⟨hback, ?_, pos_of_mem_tail_altRuns b, fun h => ?_, ?_⟩
  · rw [← length_alternate false, hback]
  · rw [← hback, h]
    rfl
  · rintro rfl
    rfl

/-! ## The fields as `DecARL` reads them -/

theorem decARLFrom_nil : decARLFrom turns f [] out = .ok out := by
  unfold decARLFrom
  exact if_pos rfl

theorem decARLFrom_of_short (hne : s ≠ []) (h : s.length < 8) :
    decARLFrom turns f s out = .error .truncatedStream := by
  unfold decARLFrom
  rw [if_neg hne, if_pos h]

theorem decARLFrom_of_complete (h : 8 ≤ s.length) :
    decARLFrom (turns + 1) f s out =
      decARLFrom turns (!f) (s.drop 8) (out ++ List.replicate (val (s.take 8)) f) := by
  rw [decARLFrom, if_neg (List.ne_nil_of_length_pos (by omega)), if_neg (Nat.not_lt.mpr h)]

/-- Reading field by field, what is left over of the whole fields is what is left over at the end. -/
theorem decARLFrom_by_length (h : s.length ≤ turns) :
    (s.length % 8 = 0 → ∃ t, decARLFrom turns f s out = .ok t) ∧
    (s.length % 8 ≠ 0 → decARLFrom turns f s out = .error .truncatedStream) := by
  induction turns generalizing f s out with
  | zero =>
    obtain rfl : s = [] := List.eq_nil_of_length_eq_zero (Nat.le_zero.1 h)
    exact ⟨fun _ => ⟨out, decARLFrom_nil⟩, fun hne => absurd rfl hne⟩
  | succ turns ih =>
    by_cases hnil : s = []
    · subst hnil
      exact ⟨fun _ => ⟨out, decARLFrom_nil⟩, fun hne => absurd rfl hne⟩
    by_cases hshort : s.length < 8
    · have hpos := List.length_pos_iff.2 hnil
      exact ⟨fun h0 => by omega, fun _ => decARLFrom_of_short hnil hshort⟩
    · have hmod : (s.drop 8).length % 8 = s.length % 8 := by rw [List.length_drop]; omega
      rw [decARLFrom_of_complete (Nat.le_of_not_lt hshort), ← hmod]
      exact ih (by rw [List.length_drop]; omega)

/-- Settles O59: there is a turn for every bit, so the reading ends with the fields or in the middle of one. -/
theorem decArlFailsOnlyMidField : Obligations.DecArlFailsOnlyMidField := fun _ => decARLFrom_by_length le_rfl

/-! ## The fields that `EncARL` writes -/

/-- The bits that a list of runs is written as (R110). -/
def arlBits (rs : List Nat) : List Bit := (arlFields rs).flatMap (bits Config.arlW)

theorem arlBits_cons (r : Nat) (rs : List Nat) :
    arlBits (r :: rs) = (escFields r).flatMap (bits Config.arlW) ++ arlBits rs := by
  rw [arlBits, arlFields, List.flatMap_cons, List.flatMap_append]
  rfl

/-- `EncARL` writes the runs that the scan finds. -/
theorem encARL_eq_arlBits (b : List Bit) : encARL b = arlBits (scanAltRuns false 0 b) := by
  rw [← altRuns_eq_scanAltRuns]
  rfl

/-- Runs that were written are read as those runs, by R88 (`escTransparent`). -/
theorem decARLFrom_arlBits (turns : Nat) (v : Bit) (rs : List Nat) (out : List Bit) :
    decARLFrom ((arlFields rs).length + turns) v (arlBits rs) out = .ok (out ++ alternate v rs) := by
  induction rs generalizing v out with
  | nil => exact decARLFrom_nil.trans (by rw [alternate, List.append_nil])
  | cons r rs ih =>
    have hturns : (arlFields (r :: rs)).length + turns =
        (escFields r).length + ((arlFields rs).length + turns) := by
      simp only [arlFields, List.flatMap_cons, List.length_append, Nat.add_assoc]
    rw [hturns, arlBits_cons]
    exact (escTransparent r _ v _ out).trans (by rw [ih, alternate, List.append_assoc])

/-- Settles O48: the fields are read as the runs they were written from, which put together are the sequence. -/
theorem roundTripB : Obligations.RoundTripB := by
  intro b
  have hturns : (arlFields (altRuns b)).length ≤ (encARL b).length := by rw [length_encARL]; omega
  obtain ⟨turns, hfuel⟩ := Nat.exists_eq_add_of_le hturns
  calc decARL (encARL b)
      = decARLFrom ((arlFields (altRuns b)).length + turns) false (arlBits (altRuns b)) [] := by
        rw [← hfuel]; rfl
    _ = .ok (alternate false (altRuns b)) := decARLFrom_arlBits turns false _ []
    _ = .ok b := by rw [alternate_altRuns]

end Sys2Proof.Machine
end

section
/-! PROOF. The rules of `ENC.ARL` and the whole pass (43_alternating.md R107 to R113). -/

namespace Sys2Proof.Machine

variable {s t : State}

/-! ## One step -/

/-- `EA_SCAN` with a payload bit left is the rule for that bit (R112). -/
theorem eaScan_of_bit {b : Bit} (hne : s.rp ≠ s.srcLen) (hbit : s.src[s.rp]? = some b) :
    eaScan s = eaScanBit b (s.advance 1) := by
  have hread : rdbit s = some (b, s.advance 1) := (rdbit_eq_some s _ b).2 ⟨hne, hbit, rfl⟩
  rw [eaScan, if_neg (mt (isExh_iff s).1 hne), hread]

theorem eaScan_of_end (hend : s.rp = s.srcLen) : eaScan s = eaScanEnd s := if_pos ((isExh_iff s).2 hend)

/-- Each case of a step in `EA_SCAN` is what the machine does there (the converse of `eaScan_cases`). -/
theorem EaScanStep.eaScan_eq (h : EaScanStep s t) : eaScan s = .next t := by
  cases h with
  | endEmpty hend hrl => simp [eaScan_of_end hend, eaScanEnd, hrl]
  | endRun hend hrl hf => simp [eaScan_of_end hend, eaScanEnd, hrl, esc_next _ _ s hf]
  | same hne hbit => simp [eaScan_of_bit hne hbit, eaScanBit]
  | other b hne hbit hb hf => simp [eaScan_of_bit hne hbit, eaScanBit, hb, esc_next _ _ (s.advance 1) hf]

/-- `ENC.ARL` in `EA_SCAN` takes the step of the bit or of the end it meets. -/
theorem EaScanStep.exec_eq (h : EaScanStep s t) (hp : s.phase = .eaScan) : exec .encArl s = .next t :=
  (execEncArl_eaScan s hp).trans h.eaScan_eq

/-- Settles O28: the two cases of `EaScanStep` with a bit left. -/
theorem encArlScanBit : Obligations.EncArlScanBit := by
  intro s b hp hf hlt hbit
  refine ⟨?_, fun hb => (EaScanStep.other b hlt.ne hbit hb hf).exec_eq hp⟩
  rintro rfl
  exact (EaScanStep.same hlt.ne hbit).exec_eq hp

/-- Settles O29: the two cases of `EaScanStep` at the end of the source. -/
theorem encArlScanEnd : Obligations.EncArlScanEnd := by
  intro s hp hf hend
  exact ⟨fun hrl => (EaScanStep.endRun hend hrl hf).exec_eq hp, fun hrl => (EaScanStep.endEmpty hend hrl).exec_eq hp⟩

/-! ## The whole pass -/

/-- The runs that `EA_SCAN` has not written yet: the one it counts, and those of the bits that are left. -/
def State.pendingAltRuns (s : State) : List Nat := scanAltRuns s.fv s.rl (s.src.drop s.rp)

/-- The scan delivers the fields of the runs that are pending, behind what is written. -/
theorem Alone.delivers_eaScan (a : Alone .eaScan s) :
    Delivers (.ok (s.snk ++ arlBits s.pendingAltRuns)) (s.srcLen - s.rp + 2) s := by
  induction hn : s.srcLen - s.rp using Nat.strong_induction_on generalizing s with | _ n ih
  subst hn
  have hrp := a.rp_le
  refine a.delivers_of_rule (by decide) (by decide) fun t h alone => ?_
  rw [phaseRule, a.phase] at h
  cases eaScan_cases h with
  | endEmpty hend hrl =>
    have hruns : s.pendingAltRuns = [] := by rw [State.pendingAltRuns, a.drop_rp_of_end hend, hrl]; rfl
    rw [hruns, arlBits, arlFields, List.flatMap_nil, List.flatMap_nil, List.append_nil]
    exact (alone .finish rfl (by decide)).delivers_ok (a.no_error (by decide))
  | endRun hend hrl hf =>
    have hruns : s.pendingAltRuns = [s.rl] := by
      rw [State.pendingAltRuns, a.drop_rp_of_end hend, scanAltRuns, if_pos hrl]
    rw [hruns, arlBits, arlFields, List.flatMap_singleton]
    exact (alone .finish rfl (by decide)).delivers_ok (a.no_error (by decide))
  | same hne hbit =>
    have hruns : s.pendingAltRuns = ((s.advance 1).setRl (s.rl + 1)).pendingAltRuns := by
      rw [State.pendingAltRuns, drop_rp_of_bit hbit, scanAltRuns_same]
      rfl
    rw [hruns]
    exact (ih _ (by simp; omega) (alone .eaScan a.phase (by decide)) rfl).mono (by simp; omega)
  | other b hne hbit hb hf =>
    have hruns : s.pendingAltRuns = s.rl :: scanAltRuns b 1 (s.src.drop (s.rp + 1)) := by
      rw [State.pendingAltRuns, drop_rp_of_bit hbit, scanAltRuns_other hb]
    rw [hruns, arlBits_cons, ← List.append_assoc]
    exact (ih _ (by simp; omega) (alone .eaScan a.phase (by decide)) rfl).mono (by simp; omega)

/-- Settles O45: the pass scans the payload bit by bit as `scanAltRuns` does, and finishes. -/
theorem encArlPass : Obligations.EncArlPass := by
  refine passComputes_of_begin (m := .compress) (st := .alternating) execEncArl_idle rfl (by decide) fun s a => ?_
  have hscan := a.delivers_eaScan.mono (k' := s.srcLen + 4) (Nat.add_le_add_left (by decide) _)
  rwa [encARL_eq_arlBits]

end Sys2Proof.Machine
end

section
/-! PROOF. The records of `DEC.ARL` and the whole pass (43_alternating.md R115 to R119). -/

namespace Sys2Proof.Machine

variable {s t : State} {n turns : Nat}

/-! ## One step -/

/-- A field that is cut short is an exception, whatever its value (R116). -/
theorem arlField_of_short (f : Bit) (n : Nat) (h : s.srcLen - s.rp < 8) :
    arlField f n s = .next (s.raise .truncatedStream) :=
  (readField_eq s _ _ (by decide) (by decide)).trans (if_pos h)

/-- A whole field emits its bits and makes the other kind due (R116). -/
theorem arlField_of_complete (f : Bit) (n : Nat) (hf : s.fin = false) (h : 8 ≤ s.srcLen - s.rp) :
    arlField f n s = .next ((((s.advance 8).setRl n).append (List.replicate n f)).setFv (!f)) := by
  rw [arlField, readField_eq s _ _ (by decide) (by decide), Config.arlW, if_neg (Nat.not_lt.mpr h),
    emit_next ((s.advance 8).setRl n) f n hf, andThen_next]

theorem daField_of_end (hend : s.rp = s.srcLen) : daField s = .next (s.goto .finish) :=
  if_pos ((isExh_iff s).2 hend)

/-- `DA_FIELD` with bits left runs the field due, of the kind `FV` says (R116). -/
theorem daField_of_left (hne : s.rp ≠ s.srcLen) : daField s = arlField s.fv (val (s.window 8)) s := by
  have htake : (s.window 8).take 8 = s.window 8 := List.take_of_length_le (length_window s 8).le
  rw [← htake, daField, if_neg (mt (isExh_iff s).1 hne)]
  cases s.fv <;> rfl

/-- Settles O30: a field that is cut short and a whole one, of either kind. -/
theorem arlRecords : Obligations.ArlRecords := by
  intro s n hf
  exact ⟨fun h => ⟨arlField_of_short false n h, arlField_of_short true n h⟩,
    fun h => ⟨arlField_of_complete false n hf h, arlField_of_complete true n hf h⟩⟩

/-- Settles O31: the end is tested before the kind of field is looked at. -/
theorem decArlEnd : Obligations.DecArlEnd :=
  fun s hp hend => (execDecArl_daField s hp).trans (daField_of_end hend)

/-! ## The whole pass -/

/-- The field phase delivers what `DecARL` reads from the bits that are left, behind what is emitted. -/
theorem Alone.delivers_daField {rest : List Bit} (a : Alone .daField s) (hrest : s.src.drop s.rp = rest)
    (hturns : rest.length ≤ turns) : Delivers (decARLFrom turns s.fv rest s.snk) (rest.length + 2) s := by
  induction turns using Nat.strong_induction_on generalizing s rest with | _ turns ih
  have hleft : rest.length = s.srcLen - s.rp := by rw [← hrest, List.length_drop, a.src_length]
  have hrp := a.rp_le
  refine a.delivers_of_rule (by decide) (by decide) fun t h alone => ?_
  rw [phaseRule, a.phase] at h
  by_cases hend : s.rp = s.srcLen
  · rw [daField_of_end hend] at h
    cases h
    rw [← hrest, a.drop_rp_of_end hend, decARLFrom_nil]
    exact (alone .finish rfl (by decide)).delivers_ok (a.no_error (by decide))
  rw [daField_of_left hend] at h
  by_cases hshort : s.srcLen - s.rp < 8
  · rw [arlField_of_short _ _ hshort] at h
    cases h
    rw [decARLFrom_of_short (List.ne_nil_of_length_pos (by omega)) (by omega)]
    exact (alone .finish rfl (by decide)).delivers_error rfl (by decide)
  · have hcomplete : 8 ≤ s.srcLen - s.rp := Nat.le_of_not_lt hshort
    rw [arlField_of_complete _ _ a.not_fin hcomplete, a.window_eq hcomplete, hrest] at h
    cases h
    obtain ⟨turns, rfl⟩ : ∃ n, turns = n + 1 := Nat.exists_eq_succ_of_ne_zero (by omega)
    have hnext : s.src.drop (s.rp + 8) = rest.drop 8 := by rw [← hrest, List.drop_drop]
    rw [decARLFrom_of_complete (by omega)]
    exact (ih turns (Nat.lt_succ_self _) (alone .daField a.phase (by decide)) hnext
      (by rw [List.length_drop]; omega)).mono (by rw [List.length_drop]; omega)

/-- Settles O46: the pass reads one field a step, as the recursion of `DecARL` does, and finishes. -/
theorem decArlPass : Obligations.DecArlPass := by
  refine passComputes_of_begin (m := .expand) (st := .alternating) execDecArl_idle rfl (by decide) fun s a => ?_
  have hfields := a.delivers_daField (rest := s.boundSource) rfl le_rfl
  exact hfields.mono (by rw [length_boundSource]; omega)

end Sys2Proof.Machine
end

section
/-! PROOF. What the host's write of `CTRL` and a core left to itself do in `IDLE` and during a pass
(44_pass_control.md R122 to R124). -/

namespace Sys2Proof.Machine

variable {s : State}

/-! ## The core's own step -/

/-- With no host operation waiting, a step is the rule of the phase (R124). -/
theorem step_eq_phaseRule (h : s.inbox = []) : step s = phaseRule s :=
  (step_of_no_op s h).trans (coreStep_eq_phaseRule s)

/-- During a pass the command in `CTRL` is the one that owns the phase, or the phase is `FINISH`, which all share: so the
rule of the phase is that command's (R20, R124). -/
theorem exec_command_eq_phaseRule (hs : Inv s) (hp : s.phase ≠ .idle) : exec s.command s = phaseRule s := by
  cases ho : s.phase.owner with
  | some i => exact exec_of_owner (ho.trans (congrArg some (hs.owner_command i ho).symm))
  | none =>
    have hf : s.phase = .finish := by cases h : s.phase <;> simp_all [Phase.owner]
    rw [exec_of_finish (i := s.command) (place_commandOf _ _) hf, phaseRule, hf]

/-- Settles O5: the core's step and the command's meaning are both the rule of the phase. -/
theorem stepIsTheCommandsNextStep : Obligations.StepIsTheCommandsNextStep := by
  intro s hs hb hno
  rw [step_eq_phaseRule hno, exec_command_eq_phaseRule hs ((busy_iff s).1 hb)]

/-- Settles O6: the core waits, and a `yield` lets it. -/
theorem idleCoreWaits : Obligations.IdleCoreWaits := fun s hp =>
  ⟨fun hno => (step_of_no_op s hno).trans (coreStep_idle s hp),
    fun ops hyield => (step_yield hyield).trans (coreStep_idle (s.withInbox ops) hp)⟩

/-! ## A write of `CTRL` -/

/-- A write of `CTRL` in `IDLE` without `START` only latches its two selections (R122). -/
theorem writeCtrl_of_no_start {w : Nat} (hb : s.busy = false) (hw : w.testBit 0 = false) :
    writeCtrl w s = .next (s.latch w) := by
  simp [writeCtrl, hb, hw]

/-- A write of `CTRL` in `IDLE` with `START` gives the command in its `CMD` bits (R54, R122). -/
theorem writeCtrl_of_start {w : Nat} (hb : s.busy = false) (hw : w.testBit 0 = true) :
    writeCtrl w s = exec (ctrlCommand w) s := by
  simp [writeCtrl, hb, hw]

/-- Settles O8: the write while busy, without `START` and with it. -/
theorem ctrlWrite : Obligations.CtrlWrite := by
  intro s w ops h
  have hstep : step s = writeCtrl w (s.withInbox ops) := step_of_op s _ ops h
  rw [hstep]
  exact ⟨fun hb => writeReg_of_busy (reg := 0) (s := s.withInbox ops) hb,
    fun hb hw => writeCtrl_of_no_start (s := s.withInbox ops) hb hw,
    fun hb hw => ⟨ctrlCommand w, decode_word rfl, writeCtrl_of_start (s := s.withInbox ops) hb hw⟩⟩

/-! ## `START` -/

/-- Settles O17: each command starts its own first phase, on the bytes that the host supplied. -/
theorem startBeginsThePass : Obligations.StartBeginsThePass := by
  intro s hp hlen hbytes begun
  have hstart (m : Mode) (st : Strategy) (p : Phase) : startPass m st p s = .next (begun m st p) := by
    refine (startPass_eq_next m st p s _).2 ⟨hlen, ?_⟩
    rw [State.begin, boundSource_of_supplied s hbytes]
    rfl
  exact ⟨(execEncPl_idle s hp).trans (hstart _ _ _), (execEncArl_idle s hp).trans (hstart _ _ _),
    (execDecPl_idle s hp).trans (hstart _ _ _), (execDecArl_idle s hp).trans (hstart _ _ _)⟩

/-- Settles O18: `START` looks at the length before anything else. -/
theorem startAboveMaxRefused : Obligations.StartAboveMaxRefused := by
  intro s hp hlen
  have hstart (m : Mode) (st : Strategy) (p : Phase) : startPass m st p s = .refused .srcLenAboveMax :=
    if_neg (mt (srcLenAllowed_iff _).1 (Nat.not_le.mpr hlen))
  exact ⟨(execEncPl_idle s hp).trans (hstart _ _ _), (execEncArl_idle s hp).trans (hstart _ _ _),
    (execDecPl_idle s hp).trans (hstart _ _ _), (execDecArl_idle s hp).trans (hstart _ _ _)⟩

end Sys2Proof.Machine
end

section
/-! PROOF. Where a step of a pass leads: the phases of 44_pass_control.md R125, and error entry (60_exceptions.md R141). -/

namespace Sys2Proof.Machine

variable {s t : State} {p : Phase}

/-! ## How a rule goes on -/

/-- From `s`, in phase `p`, a step leads to a phase that R125 lists, and brings an error only by error entry (R141). -/
structure GoesOn (p : Phase) (s t : State) : Prop where
  follows : t.phase ∈ p.mayFollow
  error_entry : t.ecode ≠ s.ecode → t.phase = .finish ∧ t.snk = s.snk

theorem goesOn_goto {u : State} {q : Phase} (hq : q ∈ p.mayFollow) (he : u.ecode = s.ecode) : GoesOn p s (u.goto q) :=
  ⟨hq, fun h => absurd he h⟩

theorem goesOn_stay (hself : p ∈ p.mayFollow) (hp : s.phase = p) (ht : t.phase = s.phase) (he : t.ecode = s.ecode) :
    GoesOn p s t :=
  ⟨(ht.trans hp).symm ▸ hself, fun h => absurd he h⟩

/-- A rule that raises has written nothing before it. -/
theorem goesOn_raise {u : State} {e : ECode} (hp : Phase.finish ∈ p.mayFollow) (hsnk : u.snk = s.snk) :
    GoesOn p s (u.raise e) :=
  ⟨hp, fun _ => ⟨rfl, hsnk⟩⟩

/-! ## The rules, one by one -/

theorem epCheck_goesOn (h : epCheck s = .next t) : GoesOn .epCheck s t := by
  obtain ⟨-, rfl⟩ | ⟨-, rfl⟩ := epCheck_eq_next.1 h
  · exact goesOn_raise (by decide) rfl
  · exact goesOn_goto (by decide) rfl

theorem epHdr_goesOn (h : epHdr s = .next t) : GoesOn .epHdr s t := by
  obtain ⟨-, -, rfl⟩ := epHdr_eq_next.1 h
  exact goesOn_goto (by decide) rfl

theorem EpScanStep.goesOn (hp : s.phase = .epScan) (h : EpScanStep s t) : GoesOn .epScan s t := by
  cases h with
  | endOutside | endInside => exact goesOn_goto (by decide) rfl
  | zeroOutside | zeroInside | oneOutside | oneInside => exact goesOn_stay (by decide) hp rfl rfl
  | oneTooMany => exact goesOn_raise (by decide) rfl

theorem dpHdr_goesOn (h : dpHdr s = .next t) : GoesOn .dpHdr s t := by
  obtain ⟨-, rfl⟩ | ⟨-, rfl⟩ := execPlHdr_eq_next.1 h
  · exact goesOn_raise (by decide) rfl
  · exact goesOn_goto (by decide) rfl

theorem dpRun_goesOn (hp : s.phase = .dpRun) (h : dpRun s = .next t) : GoesOn .dpRun s t := by
  obtain ⟨-, rfl⟩ | ⟨start, length, -, hrun⟩ := dpRun_cases h
  · exact goesOn_goto (by decide) rfl
  · cases hrun with
    | noStart | noLength | corrupt => exact goesOn_raise (by decide) rfl
    | run => exact goesOn_stay (by decide) hp rfl rfl

theorem dpTail_goesOn (h : dpTail s = .next t) : GoesOn .dpTail s t := by
  obtain rfl := dpTail_eq h
  exact goesOn_goto (by decide) rfl

theorem EaScanStep.goesOn (hp : s.phase = .eaScan) (h : EaScanStep s t) : GoesOn .eaScan s t := by
  cases h with
  | endEmpty | endRun => exact goesOn_goto (by decide) rfl
  | same | other => exact goesOn_stay (by decide) hp rfl rfl

theorem daField_goesOn (hp : s.phase = .daField) (h : daField s = .next t) : GoesOn .daField s t := by
  obtain ⟨-, rfl⟩ | ⟨n, -, hn⟩ := daField_cases h
  · exact goesOn_goto (by decide) rfl
  · obtain ⟨-, rfl⟩ | ⟨-, rfl⟩ := arlField_cases hn
    · exact goesOn_raise (by decide) rfl
    · exact goesOn_stay (by decide) hp rfl rfl

theorem finish_goesOn (h : finish s = .next t) : GoesOn .finish s t := by
  obtain ⟨-, rfl⟩ := (finish_eq_next s t).1 h
  exact ⟨List.mem_singleton_self Phase.idle, fun he => absurd rfl he⟩

theorem phaseRule_goesOn (h : phaseRule s = .next t) : GoesOn s.phase s t := by
  unfold phaseRule at h
  cases hp : s.phase <;> rw [hp] at h
  case idle => cases h; exact goesOn_stay (by decide) hp rfl rfl
  case epCheck => exact epCheck_goesOn h
  case epHdr => exact epHdr_goesOn h
  case epScan => exact (epScan_cases h).goesOn hp
  case dpHdr => exact dpHdr_goesOn h
  case dpRun => exact dpRun_goesOn hp h
  case dpTail => exact dpTail_goesOn h
  case eaScan => exact (eaScan_cases h).goesOn hp
  case daField => exact daField_goesOn hp h
  case finish => exact finish_goesOn h

/-! ## The obligations -/

/-- A phase that can end a pass belongs to a command: neither `IDLE` nor `FINISH` can (R125). -/
theorem exists_owner_of_finish_mem (h : Phase.finish ∈ p.mayFollow) : ∃ i, p.owner = some i := by
  cases p with
  | idle | finish => simp [Phase.mayFollow] at h
  | epCheck | epHdr | epScan | dpHdr | dpRun | dpTail | eaScan | daField => exact ⟨_, rfl⟩

/-- Settles O35: every rule goes on to a phase that is listed. -/
theorem phaseTransitions : Obligations.PhaseTransitions := by
  intro s t hno h
  exact (phaseRule_goesOn (step_eq_phaseRule hno ▸ h)).follows

/-- The step in which a pass completes (R126). -/
theorem Alone.step_finish (a : Alone .finish s) : step s = .next s.seal.complete := by
  rw [step_eq_phaseRule a.no_op, phaseRule, a.phase]
  exact (finish_eq_next s _).2 ⟨a.not_fin, rfl⟩

/-- A completed pass that has failed shows `DONE`, `ERR` and its code (10_state.md R24). -/
theorem statusWord_complete_of_error (he : s.ecode ≠ .none) : s.complete.statusWord = 6 + 16 * s.ecode.code := by
  have herr : s.complete.err = true := (err_iff _).2 he
  simp [State.statusWord, State.busy, herr]

/-- Settles O34: the frame of the raising step, error entry, and the completion in the step after it. -/
theorem errorEntry : Obligations.ErrorEntry := by
  intro s t hs hb hno hnone h he
  obtain ⟨hdone, hfin⟩ := hs.busy_open hb
  have hrule : phaseRule s = .next t := step_eq_phaseRule hno ▸ h
  have g := phaseRule_goesOn hrule
  obtain ⟨hphase, hsnk⟩ := g.error_entry (hnone ▸ he)
  obtain ⟨i, ho⟩ := exists_owner_of_finish_mem (hphase ▸ g.follows)
  obtain ⟨f, -⟩ := phaseRule_frame ho hrule
  have a : Alone .finish t := ⟨(step_keeps_inv hs h).running hphase (by decide), f.inbox.trans hno⟩
  exact ⟨hphase, hsnk, f.snkb, f.fin.trans hfin, f.done.trans hdone, f.command,
    _, a.step_finish, rfl, statusWord_complete_of_error he, rfl⟩

end Sys2Proof.Machine
end

section
/-! PROOF. Every phase of a pass delivers a result, within the bits that are left and four more steps
(44_pass_control.md R128). -/

namespace Sys2Proof.Machine

variable {s t : State} {p : Phase} {r : PassResult}

/-- Whatever its result, a pass that has ended shows `DONE` (10_state.md R24, 44_pass_control.md R127). -/
theorem PassEnds.done (h : PassEnds r s t) : t.done = true := by
  obtain ⟨-, hdone, -⟩ := statusWord_fields t
  obtain ⟨-, -, hend⟩ := h
  rw [← hdone]
  cases r with
  | ok out => rw [hend.1]; rfl
  | error e => rw [hend]; cases e <;> rfl

/-- A pass delivers its result from every phase it can be in: each codec's lemma of the phase counts the steps. -/
theorem Alone.delivers (a : Alone p s) (hp : p ≠ .idle) : ∃ r, Delivers r (s.srcLen - s.rp + 4) s := by
  have hleft : (s.src.drop s.rp).length = s.srcLen - s.rp := by rw [List.length_drop, a.src_length]
  cases p with
  | idle => exact absurd rfl hp
  | epCheck =>
    obtain ⟨hrp, -⟩ := a.at_phase
    exact ⟨_, a.delivers_epCheck.mono (by omega)⟩
  | epHdr =>
    obtain ⟨hrp, -⟩ := a.at_phase
    exact ⟨_, a.delivers_epHdr.mono (by omega)⟩
  | epScan => exact ⟨_, a.delivers_epScan.mono (by omega)⟩
  | dpHdr =>
    obtain ⟨hrp, -⟩ := a.at_phase
    exact ⟨_, a.delivers_dpHdr.mono (by omega)⟩
  | dpRun => exact ⟨_, (a.delivers_dpRun rfl rfl rfl le_rfl).mono (by omega)⟩
  | dpTail => exact ⟨_, a.delivers_dpTail (k := s.srcLen - s.rp + 2)⟩
  | eaScan => exact ⟨_, a.delivers_eaScan.mono (by omega)⟩
  | daField => exact ⟨_, (a.delivers_daField rfl le_rfl).mono (by omega)⟩
  | finish =>
    by_cases he : s.ecode = .none
    · exact ⟨_, a.delivers_ok he⟩
    · exact ⟨_, a.delivers_error rfl he⟩

/-- Settles O41: the pass at `s` delivers a result within the bound, and then the machine is idle and done. -/
theorem everyPassTerminates : Obligations.EveryPassTerminates := by
  intro s hs hb hno
  have hp : s.phase ≠ .idle := (busy_iff s).1 hb
  obtain ⟨r, k, t, hk, hrun, -, hend⟩ := Alone.delivers ⟨hs.running rfl hp, hno⟩ hp
  exact ⟨k, t, hk, hrun, hend.1, hend.done⟩

end Sys2Proof.Machine
end

section
/-! PROOF. What a pass does depends on nothing that a pass before it has left behind (44_pass_control.md R132). -/

namespace Sys2Proof.Machine

variable {s t s' : State} {e : ECode}

/-! ## Two states of the same pass -/

/-- Two states that agree in all that a rule reads whatever its phase: all of the pass but `x[RS]` and `x[TL]`. -/
structure Alike (s t : State) : Prop where
  phase : s.phase = t.phase
  command : s.command = t.command
  done : s.done = t.done
  ecode : s.ecode = t.ecode
  inRun : s.inRun = t.inRun
  fv : s.fv = t.fv
  fin : s.fin = t.fin
  src : s.src = t.src
  srcLen : s.srcLen = t.srcLen
  rp : s.rp = t.rp
  snk : s.snk = t.snk
  snkb : s.snkb = t.snkb
  rl : s.rl = t.rl

/-- During a pass without an error the two states differ in none of these (U1, U9). -/
theorem SamePass.alike (h : SamePass s t) (hp : s.phase ≠ .idle) (he : s.ecode = .none) : Alike s t := by
  obtain ⟨hdone, hecode⟩ := h.status
  obtain ⟨hin, hfv, hfin⟩ := h.flags
  obtain ⟨hsrc, hlen⟩ := h.source
  obtain ⟨hrp, hsnk, hsnkb⟩ := h.streams he
  exact ⟨h.phase, h.command, hdone, hecode, hin, hfv, hfin, hsrc, hlen, hrp, hsnk, hsnkb, h.rl hp⟩

namespace Alike

variable (a : Alike s t)
include a

/-- The two registers that are left have to agree only where a rule is going to read them. -/
theorem samePass (hrs : s.phase = .epScan → s.inRun = true → s.rs = t.rs)
    (htl : s.phase = .dpRun ∨ s.phase = .dpTail → s.tl = t.tl) : SamePass s t where
  phase := a.phase
  command := a.command
  status := ⟨a.done, a.ecode⟩
  flags := ⟨a.inRun, a.fv, a.fin⟩
  source := ⟨a.src, a.srcLen⟩
  streams := fun _ => ⟨a.rp, a.snk, a.snkb⟩
  rl := fun _ => a.rl
  rs := hrs
  tl := htl

/-- Outside `EP_SCAN` and the record phases of `DEC.PL` nothing else is read. -/
theorem samePass_of_phase {p : Phase} (hp : s.phase = p) (hne : p ∉ [Phase.epScan, .dpRun, .dpTail]) :
    SamePass s t := by
  subst hp
  simp only [List.mem_cons, List.not_mem_nil, or_false, not_or] at hne
  obtain ⟨hscan, hrecord⟩ := hne
  exact a.samePass (fun h => absurd h hscan) (fun h => absurd h (not_or.mpr hrecord))

theorem samePass_epScan (hp : s.phase = .epScan) (hrs : s.inRun = true → s.rs = t.rs) : SamePass s t :=
  a.samePass (fun _ => hrs) (by simp [hp])

theorem samePass_decPl (hp : s.phase = .dpRun ∨ s.phase = .dpTail) (htl : s.tl = t.tl) : SamePass s t :=
  a.samePass (fun h => by simp [h] at hp) (fun _ => htl)

/-! Every update a rule is made of keeps the agreement. -/

theorem advance (n : Nat) : Alike (s.advance n) (t.advance n) := { a with rp := congrArg (· + n) a.rp }
theorem append (bs : List Bit) : Alike (s.append bs) (t.append bs) := { a with snk := congrArg (· ++ bs) a.snk }
theorem goto (p : Phase) : Alike (s.goto p) (t.goto p) := { a with phase := rfl }
theorem raise (e : ECode) : Alike (s.raise e) (t.raise e) := { a with phase := rfl, ecode := rfl }
theorem enterRun (start : Nat) : Alike (s.enterRun start) (t.enterRun start) := { a with inRun := rfl, rl := rfl }
theorem leaveRun : Alike s.leaveRun t.leaveRun := { a with inRun := rfl }
theorem setFv (b : Bit) : Alike (s.setFv b) (t.setFv b) := { a with fv := rfl }
theorem setRs (v : Nat) : Alike (s.setRs v) (t.setRs v) := { a with }
theorem setRl (v : Nat) : Alike (s.setRl v) (t.setRl v) := { a with rl := rfl }
theorem setTl (v : Nat) : Alike (s.setTl v) (t.setTl v) := { a with }

/-! A rule that ends in a phase of its own, and one that raises. -/

theorem samePass_goto {p : Phase} (hp : p ∉ [Phase.epScan, .dpRun, .dpTail]) : SamePass (s.goto p) (t.goto p) :=
  (a.goto p).samePass_of_phase rfl hp
theorem samePass_raise : SamePass (s.raise e) (t.raise e) :=
  (a.raise e).samePass_of_phase (p := .finish) rfl (by decide)

/-! What a rule asks of the source and of the sink has one answer. -/

theorem wp : s.wp = t.wp := congrArg List.length a.snk
theorem left : s.srcLen - s.rp = t.srcLen - t.rp := by rw [a.srcLen, a.rp]
theorem atEnd : s.rp = s.srcLen ↔ t.rp = t.srcLen := by rw [a.srcLen, a.rp]
theorem nextBit : s.src[s.rp]? = t.src[t.rp]? := by rw [a.src, a.rp]
theorem window (w : Nat) : s.window w = t.window w := by rw [State.window, a.src, a.srcLen, a.rp]; rfl

end Alike

/-! ## The rules, one by one -/

/-- The operation answers a state in the same place of the same pass as `s'`. -/
def Follows (s' : State) (o : Result) : Prop := ∃ t', o = .next t' ∧ SamePass s' t'

section

variable (a : Alike s t)
include a

theorem Alike.epCheck_follows (h : epCheck s = .next s') : Follows s' (epCheck t) := by
  obtain ⟨hlen, rfl⟩ | ⟨hlen, rfl⟩ := epCheck_eq_next.1 h <;> rw [a.srcLen] at hlen
  · exact ⟨_, epCheck_eq_next.2 (.inl ⟨hlen, rfl⟩), a.samePass_raise⟩
  · exact ⟨_, epCheck_eq_next.2 (.inr ⟨hlen, rfl⟩), a.samePass_goto (by decide)⟩

theorem Alike.epHdr_follows (h : epHdr s = .next s') : Follows s' (epHdr t) := by
  obtain ⟨hf, hlen, rfl⟩ := epHdr_eq_next.1 h
  rw [a.fin] at hf
  rw [a.srcLen] at hlen ⊢
  exact ⟨_, epHdr_eq_next.2 ⟨hf, hlen, rfl⟩, ((a.append _).leaveRun.goto _).samePass_epScan rfl (fun h => nomatch h)⟩

/-- `EP_SCAN` reads `x[RS]` within a run only, and has set it on entering the run (R94). -/
theorem Alike.epScan_follows (hp : s.phase = .epScan) (hrs : s.inRun = true → s.rs = t.rs) (h : EpScanStep s s') :
    Follows s' (epScan t) := by
  suffices ∃ t', EpScanStep t t' ∧ SamePass s' t' by
    obtain ⟨t', ht, hsame⟩ := this
    exact ⟨t', ht.epScan_eq, hsame⟩
  cases h with
  | endOutside hend hout =>
    exact ⟨_, .endOutside (a.atEnd.1 hend) (a.inRun ▸ hout), a.samePass_goto (by decide)⟩
  | endInside hend hin hf hrl =>
    rw [hrs hin, a.rl]
    exact ⟨_, .endInside (a.atEnd.1 hend) (a.inRun ▸ hin) (a.fin ▸ hf) (a.rl ▸ hrl),
      (a.append _).leaveRun.samePass_goto (by decide)⟩
  | zeroOutside hne hbit hout =>
    exact ⟨_, .zeroOutside (mt a.atEnd.2 hne) (a.nextBit ▸ hbit) (a.inRun ▸ hout),
      (a.advance 1).samePass_epScan hp hrs⟩
  | zeroInside hne hbit hin hf hrl =>
    rw [hrs hin, a.rl]
    exact ⟨_, .zeroInside (mt a.atEnd.2 hne) (a.nextBit ▸ hbit) (a.inRun ▸ hin) (a.fin ▸ hf) (a.rl ▸ hrl),
      ((a.advance 1).append _).leaveRun.samePass_epScan hp (fun h => nomatch h)⟩
  | oneOutside hne hbit hout =>
    rw [a.rp]
    exact ⟨_, .oneOutside (mt a.atEnd.2 hne) (a.nextBit ▸ hbit) (a.inRun ▸ hout),
      (((a.advance 1).enterRun _).setRl 1).samePass_epScan hp fun _ => rfl⟩
  | oneInside hne hbit hin hrl =>
    rw [a.rl]
    exact ⟨_, .oneInside (mt a.atEnd.2 hne) (a.nextBit ▸ hbit) (a.inRun ▸ hin) (a.rl ▸ hrl),
      ((a.advance 1).setRl _).samePass_epScan hp hrs⟩
  | oneTooMany hne hbit hin hrl =>
    exact ⟨_, .oneTooMany (mt a.atEnd.2 hne) (a.nextBit ▸ hbit) (a.inRun ▸ hin) (a.rl ▸ hrl),
      (a.advance 1).samePass_raise⟩

/-- `DP_HDR` sets `x[TL]`, for the phases that read it (R99). -/
theorem Alike.dpHdr_follows (h : dpHdr s = .next s') : Follows s' (dpHdr t) := by
  rw [Follows, dpHdr, ← a.window]
  obtain ⟨hleft, rfl⟩ | ⟨hleft, rfl⟩ := execPlHdr_eq_next.1 h <;> rw [a.left] at hleft
  · exact ⟨_, execPlHdr_eq_next.2 (.inl ⟨hleft, rfl⟩), a.samePass_raise⟩
  · exact ⟨_, execPlHdr_eq_next.2 (.inr ⟨hleft, rfl⟩), (((a.advance 16).setTl _).goto _).samePass_decPl (.inl rfl) rfl⟩

/-- `PL.RUN` sets `x[RS]` and `x[RL]` before it reads them (R100). -/
theorem Alike.plRun_follows {start length : Nat} (hp : s.phase = .dpRun) (htl : s.tl = t.tl) (hf : s.fin = false)
    (h : PlRunStep start length s s') : Follows s' (execPlRun start length t) := by
  suffices ∃ t', PlRunStep start length t t' ∧ SamePass s' t' by
    obtain ⟨t', ht, hsame⟩ := this
    exact ⟨t', ht.execPlRun_eq (a.fin ▸ hf), hsame⟩
  cases h with
  | noStart hleft => exact ⟨_, .noStart (a.left ▸ hleft), a.samePass_raise⟩
  | noLength hstart hleft =>
    exact ⟨_, .noLength (a.left ▸ hstart) (a.left ▸ hleft),
      ((a.advance 16).setRs start).samePass_raise⟩
  | corrupt hleft hcause =>
    exact ⟨_, .corrupt (a.left ▸ hleft) (a.wp ▸ htl ▸ hcause),
      (((a.advance 24).setRs start).setRl length).samePass_raise⟩
  | run hleft hwp hfits =>
    rw [a.wp]
    exact ⟨_, .run (a.left ▸ hleft) (a.wp ▸ hwp) (htl ▸ hfits),
      ((((a.advance 24).setRs start).setRl length).append _).samePass_decPl (.inl hp) htl⟩

theorem Alike.dpRun_follows (hp : s.phase = .dpRun) (htl : s.tl = t.tl) (hf : s.fin = false)
    (h : dpRun s = .next s') : Follows s' (dpRun t) := by
  by_cases hend : s.rp = s.srcLen
  · obtain rfl : s.goto .dpTail = s' := by simpa [dpRun, (isExh_iff s).2 hend] using h
    exact ⟨_, if_pos ((isExh_iff t).2 (a.atEnd.1 hend)), (a.goto _).samePass_decPl (.inr rfl) htl⟩
  · rw [dpRun_of_left hend] at h
    rw [dpRun_of_left (mt a.atEnd.2 hend), ← a.window]
    exact a.plRun_follows hp htl hf (execPlRun_cases h)

theorem Alike.dpTail_follows (htl : s.tl = t.tl) (hf : s.fin = false) (h : dpTail s = .next s') :
    Follows s' (dpTail t) := by
  obtain rfl := dpTail_eq h
  rw [htl, a.wp]
  refine ⟨_, ?_, (a.append _).samePass_goto (by decide)⟩
  rw [dpTail, emit_next t _ _ (a.fin ▸ hf), andThen_next]

theorem Alike.eaScan_follows (hp : s.phase = .eaScan) (h : EaScanStep s s') : Follows s' (eaScan t) := by
  suffices ∃ t', EaScanStep t t' ∧ SamePass s' t' by
    obtain ⟨t', ht, hsame⟩ := this
    exact ⟨t', ht.eaScan_eq, hsame⟩
  cases h with
  | endEmpty hend hrl =>
    exact ⟨_, .endEmpty (a.atEnd.1 hend) (a.rl ▸ hrl), a.samePass_goto (by decide)⟩
  | endRun hend hrl hf =>
    rw [a.rl]
    exact ⟨_, .endRun (a.atEnd.1 hend) (a.rl ▸ hrl) (a.fin ▸ hf),
      (a.append _).samePass_goto (by decide)⟩
  | same hne hbit =>
    rw [a.rl]
    exact ⟨_, .same (mt a.atEnd.2 hne) (a.nextBit ▸ a.fv ▸ hbit),
      ((a.advance 1).setRl _).samePass_of_phase hp (by decide)⟩
  | other b hne hbit hb hf =>
    rw [a.rl]
    exact ⟨_, .other b (mt a.atEnd.2 hne) (a.nextBit ▸ hbit) (a.fv ▸ hb) (a.fin ▸ hf),
      ((((a.advance 1).append _).setFv b).setRl 1).samePass_of_phase hp (by decide)⟩

theorem Alike.daField_follows (hp : s.phase = .daField) (hf : s.fin = false) (h : daField s = .next s') :
    Follows s' (daField t) := by
  by_cases hend : s.rp = s.srcLen
  · obtain rfl : s.goto .finish = s' := Host.Outcome.next.inj ((daField_of_end hend).symm.trans h)
    exact ⟨_, daField_of_end (a.atEnd.1 hend), a.samePass_goto (by decide)⟩
  · rw [daField_of_left hend] at h
    rw [daField_of_left (mt a.atEnd.2 hend), ← a.window, ← a.fv]
    obtain ⟨hleft, rfl⟩ | ⟨hleft, rfl⟩ := arlField_cases h <;> rw [a.left] at hleft
    · exact ⟨_, arlField_of_short _ _ hleft, a.samePass_raise⟩
    · exact ⟨_, arlField_of_complete _ _ (a.fin ▸ hf) hleft,
        ((((a.advance 8).setRl _).append _).setFv _).samePass_of_phase hp (by decide)⟩

end

/-! ## The step, the run and the start -/

/-- `FINISH` closes a failed pass as well, of whose streams nothing is said (R126, U1). -/
theorem SamePass.finish_follows (h : SamePass s t) (hr : finish s = .next s') : Follows s' (finish t) := by
  obtain ⟨hf, rfl⟩ := (finish_eq_next s s').1 hr
  obtain ⟨hin, hfv, hfin⟩ := h.flags
  refine ⟨_, (finish_eq_next t _).2 ⟨hfin ▸ hf, rfl⟩, ?_⟩
  constructor
  case phase => rfl
  case command => exact h.command
  case status => exact ⟨rfl, h.status.2⟩
  case flags => exact ⟨hin, hfv, rfl⟩
  case source => exact h.source
  case streams =>
    intro he
    obtain ⟨hrp, hsnk, -⟩ := h.streams he
    exact ⟨hrp, hsnk, congrArg pack hsnk⟩
  all_goals simp

/-- The rule of a phase takes two states in the same place of the same pass on to the same place. -/
theorem SamePass.phaseRule_follows (h : SamePass s t) (hs : Inv s) (hr : phaseRule s = .next s') :
    Follows s' (phaseRule t) := by
  have alike (hp : s.phase ≠ .idle ∧ s.phase ≠ .finish) : Alike s t :=
    have ⟨hidle, hfinish⟩ := hp
    h.alike hidle ((hs.running rfl hidle).no_error hfinish)
  unfold phaseRule at hr ⊢
  rw [← h.phase]
  cases hp : s.phase <;> rw [hp] at hr alike
  case idle => cases hr; exact ⟨t, rfl, h⟩
  case epCheck => exact (alike (by decide)).epCheck_follows hr
  case epHdr => exact (alike (by decide)).epHdr_follows hr
  case epScan => exact (alike (by decide)).epScan_follows hp (h.rs hp) (epScan_cases hr)
  case dpHdr => exact (alike (by decide)).dpHdr_follows hr
  case dpRun => exact (alike (by decide)).dpRun_follows hp (h.tl (.inl hp)) (hs.running hp (by decide)).not_fin hr
  case dpTail => exact (alike (by decide)).dpTail_follows (h.tl (.inr hp)) (hs.running hp (by decide)).not_fin hr
  case eaScan => exact (alike (by decide)).eaScan_follows hp (eaScan_cases hr)
  case daField => exact (alike (by decide)).daField_follows hp (hs.running hp (by decide)).not_fin hr
  case finish => exact h.finish_follows hr

/-- With no host operation waiting, two such states stay together for every number of steps. -/
theorem SamePass.run_follows {k : Nat} (h : SamePass s t) (hs : Inv s) (hno : s.inbox = []) (hno' : t.inbox = [])
    (hr : run k s = .next s') : Follows s' (run k t) := by
  induction k generalizing s t with
  | zero => cases hr; exact ⟨t, rfl, h⟩
  | succ k ih =>
    obtain ⟨u, hu, hrun⟩ := (andThen_eq_next _ _ _).1 hr
    have hrule : phaseRule s = .next u := step_eq_phaseRule hno ▸ hu
    obtain ⟨v, hv, hsame⟩ := h.phaseRule_follows hs hrule
    have hu_no : u.inbox = [] := (coreStep_frame (coreStep_eq_phaseRule s ▸ hrule)).inbox.trans hno
    have hv_no : v.inbox = [] := (coreStep_frame (coreStep_eq_phaseRule t ▸ hv)).inbox.trans hno'
    rw [run_succ, step_eq_phaseRule hno', hv]
    exact ih hsame (step_keeps_inv hs hu) hu_no hv_no hrun

/-- What a command's `START` is, the same in every idle state (R122, R123). -/
theorem exists_startPass {i : Instr} (hi : i.place = .command) :
    ∃ m st p, (∀ s : State, s.phase = .idle → exec i s = startPass m st p s) ∧
      p ∈ [Phase.epCheck, .eaScan, .dpHdr, .daField] := by
  cases i with
  | encPl => exact ⟨_, _, _, execEncPl_idle, by decide⟩
  | encArl => exact ⟨_, _, _, execEncArl_idle, by decide⟩
  | decPl => exact ⟨_, _, _, execDecPl_idle, by decide⟩
  | decArl => exact ⟨_, _, _, execDecArl_idle, by decide⟩
  | plHdr | plRun | arlZ | arlO => cases hi

/-- Two passes that begin on the same source are in the same place: `START` sets all that a rule reads (R123). -/
theorem samePass_begin {m : Mode} {st : Strategy} {p : Phase} (hsrc : s.boundSource = t.boundSource)
    (hlen : s.srcLen = t.srcLen) (hp : p ∈ [Phase.epCheck, .eaScan, .dpHdr, .daField]) :
    SamePass (s.begin m st p) (t.begin m st p) := by
  have a : Alike (s.begin m st p) (t.begin m st p) := by
    constructor
    case src => exact hsrc
    case srcLen => exact hlen
    all_goals rfl
  exact a.samePass_of_phase (p := p) rfl (by fin_cases hp <;> decide)

/-- Settles O42: the two passes begin in the same place, and every step takes both on to the same place. -/
theorem passesAreIndependent : Obligations.PassesAreIndependent := by
  rintro i s₁ s₂ t₁ k hi ⟨hidle₁, hno₁, hlen₁, hbytes₁⟩ ⟨hidle₂, hno₂, hlen₂, hbytes₂⟩ hsrcLen hpayload h
  obtain ⟨m, st, p, hstart, hp⟩ := exists_startPass hi
  have hbegin₁ : exec i s₁ = .next (s₁.begin m st p) :=
    (hstart s₁ hidle₁).trans ((startPass_eq_next ..).2 ⟨(srcLenAllowed_iff _).1 hlen₁, rfl⟩)
  have hbegin₂ : exec i s₂ = .next (s₂.begin m st p) :=
    (hstart s₂ hidle₂).trans ((startPass_eq_next ..).2 ⟨(srcLenAllowed_iff _).1 hlen₂, rfl⟩)
  have hsrc : s₁.boundSource = s₂.boundSource := by
    rw [boundSource_of_supplied s₁ hbytes₁, boundSource_of_supplied s₂ hbytes₂]
    exact hpayload
  rw [hbegin₁, andThen_next] at h
  rw [hbegin₂, andThen_next]
  exact (samePass_begin hsrc hsrcLen hp).run_follows (start_keeps_inv hi hidle₁ hbegin₁) hno₁ hno₂ h

end Sys2Proof.Machine
end

section
/-! PROOF. Each exception is raised exactly on its cause (60_exceptions.md R134 to R138, R140). -/

namespace Sys2Proof.Machine

variable {s t : State} {e : ECode}

/-! ## The cause, by the phase -/

/-- `LengthOverflow` is the one exception of `EP_CHECK` (R135). -/
theorem raisedFor_of_epCheck (hp : s.phase = .epCheck) : RaisedFor s e ↔ e = .lengthOverflow ∧ 65535 < s.srcLen := by
  cases e <;> simp [RaisedFor, State.due, hp]

/-- `RunLengthOverflow` is the one exception of `EP_SCAN` (R136). -/
theorem raisedFor_of_epScan (hp : s.phase = .epScan) :
    RaisedFor s e ↔ e = .runLengthOverflow ∧ s.inRun = true ∧ s.rl = 255 ∧ s.src[s.rp]? = some true := by
  cases e <;> simp [RaisedFor, State.due, hp]

/-- A header can only be cut short (R137). -/
theorem raisedFor_of_dpHdr (hp : s.phase = .dpHdr) : RaisedFor s e ↔ e = .truncatedStream ∧ s.srcLen - s.rp < 16 := by
  cases e <;> simp [RaisedFor, State.due, hp, Place.width, Config.plLenW]

/-- A record is cut short (R137), or is whole and breaks one of its two checks (R138). -/
theorem raisedFor_of_dpRun (hp : s.phase = .dpRun) :
    RaisedFor s e ↔
      (e = .truncatedStream ∧ s.rp ≠ s.srcLen ∧ s.srcLen - s.rp < 24) ∨
      (e = .corruptStream ∧ 24 ≤ s.srcLen - s.rp ∧
        (s.memRead s.rp 16 < s.wp ∨ s.tl.toNat < s.memRead s.rp 16 + s.memRead (s.rp + 16) 8)) := by
  cases e <;> simp [RaisedFor, State.due, hp, Place.width, Config.plStartW, Config.plRunW]

/-- A field of either kind can only be cut short (R137). -/
theorem raisedFor_of_daField (hp : s.phase = .daField) :
    RaisedFor s e ↔ e = .truncatedStream ∧ s.rp ≠ s.srcLen ∧ s.srcLen - s.rp < 8 := by
  cases e <;> cases hf : s.fv <;> simp [RaisedFor, State.due, hp, hf, Place.width, Config.arlW]

/-- No other phase of a pass has an exception (R140). -/
theorem not_raisedFor (hp : s.phase ∈ [Phase.epHdr, .dpTail, .eaScan, .finish]) : ¬ RaisedFor s e := by
  cases hq : s.phase with
  | epHdr | dpTail | eaScan | finish => cases e <;> simp [RaisedFor, State.due, hq]
  | idle | epCheck | epScan | dpHdr | dpRun | daField => simp [hq] at hp

/-! ## The rules, one by one -/

/-- The error code after a step from `s` to `t` is the exception whose cause holds at `s`, if one does. -/
def RaisesOnCause (s t : State) : Prop := ∀ e, e ≠ .none → (t.ecode = e ↔ RaisedFor s e)

/-- Where no cause holds, a step keeps to the causes by leaving no error code. -/
theorem raisesOnCause_of_quiet (ht : t.ecode = .none) (h : ∀ e, ¬ RaisedFor s e) : RaisesOnCause s t :=
  fun e he => iff_of_false (fun hte => he (hte.symm.trans ht)) (h e)

/-- Where one cause holds, a step keeps to the causes by raising its exception. -/
theorem raisesOnCause_of_raise {u : State} {c : ECode} (h : ∀ e, RaisedFor s e ↔ e = c) :
    RaisesOnCause s (u.raise c) :=
  fun e _ => eq_comm.trans (h e).symm

theorem epCheck_raisesOnCause (hp : s.phase = .epCheck) (hnone : s.ecode = .none) (h : epCheck s = .next t) :
    RaisesOnCause s t := by
  obtain ⟨hlen, rfl⟩ | ⟨hlen, rfl⟩ := epCheck_eq_next.1 h
  · exact raisesOnCause_of_raise fun e => by simp [raisedFor_of_epCheck hp, hlen]
  · exact raisesOnCause_of_quiet hnone fun e => by simp [raisedFor_of_epCheck hp, hlen]

theorem epHdr_raisesOnCause (hp : s.phase = .epHdr) (hnone : s.ecode = .none) (h : epHdr s = .next t) :
    RaisesOnCause s t := by
  obtain ⟨-, -, rfl⟩ := epHdr_eq_next.1 h
  exact raisesOnCause_of_quiet hnone fun _ => not_raisedFor (by simp [hp])

/-- Of the steps of the scan only the 256th `1` of a run has a cause; at the end there is no bit that could be one. -/
theorem EpScanStep.raisesOnCause (r : Running .epScan s) (h : EpScanStep s t) : RaisesOnCause s t := by
  have hnone : s.ecode = .none := r.no_error (by decide)
  have hcause (e : ECode) := raisedFor_of_epScan (e := e) r.phase
  cases h with
  | endOutside _ hout | zeroOutside _ _ hout | oneOutside _ _ hout =>
    exact raisesOnCause_of_quiet hnone fun e => by simp [hcause, hout]
  | endInside hend =>
    exact raisesOnCause_of_quiet hnone fun e => by simp [hcause, hend, ← r.src_length]
  | zeroInside _ hbit =>
    exact raisesOnCause_of_quiet hnone fun e => by simp [hcause, hbit]
  | oneInside _ _ _ hrl =>
    exact raisesOnCause_of_quiet hnone fun e => by simp [hcause, hrl]
  | oneTooMany _ hbit hin hrl =>
    exact raisesOnCause_of_raise fun e => by simp [hcause, hbit, hin, hrl]

theorem dpHdr_raisesOnCause (hp : s.phase = .dpHdr) (hnone : s.ecode = .none) (h : dpHdr s = .next t) :
    RaisesOnCause s t := by
  obtain ⟨hleft, rfl⟩ | ⟨hleft, rfl⟩ := execPlHdr_eq_next.1 h
  · exact raisesOnCause_of_raise fun e => by simp [raisedFor_of_dpHdr hp, hleft]
  · exact raisesOnCause_of_quiet hnone fun e => by simp [raisedFor_of_dpHdr hp, hleft]

/-- The two fields of a record, as the checks of a whole record name them (R100). -/
theorem recordStart_drop_rp (s : State) : recordStart (s.src.drop s.rp) = s.memRead s.rp 16 := rfl

theorem recordLength_drop_rp (s : State) : recordLength (s.src.drop s.rp) = s.memRead (s.rp + 16) 8 := by
  rw [recordLength, List.drop_drop, State.memRead]

/-- The record list is over, or the record due is cut short, corrupt or legal: the causes tell the four apart. -/
theorem dpRun_raisesOnCause (r : Running .dpRun s) (h : dpRun s = .next t) : RaisesOnCause s t := by
  have hnone : s.ecode = .none := r.no_error (by decide)
  have hcause (e : ECode) := raisedFor_of_dpRun (e := e) r.phase
  by_cases hend : s.rp = s.srcLen
  · obtain rfl : s.goto .dpTail = t := by simpa [dpRun, (isExh_iff s).2 hend] using h
    exact raisesOnCause_of_quiet hnone fun e => by simp [hcause, hend]
  by_cases hleft : s.srcLen - s.rp < 24
  · obtain ⟨u, rfl⟩ := dpRun_of_short hend hleft h
    exact raisesOnCause_of_raise fun e => by simp [hcause, hend, hleft, Nat.not_le.mpr hleft]
  have hwhole : 24 ≤ s.srcLen - s.rp := Nat.le_of_not_lt hleft
  obtain ⟨hcorrupt, u, rfl⟩ | ⟨hstart, hlength, rfl⟩ :=
    r.dpRun_record_cases hwhole h (recordStart_drop_rp s) (recordLength_drop_rp s)
  · exact raisesOnCause_of_raise fun e => by simp [hcause, hleft, hwhole, State.wp, hcorrupt]
  · exact raisesOnCause_of_quiet hnone fun e => by simp [hcause, hleft, State.wp, hstart, hlength]

theorem dpTail_raisesOnCause (hp : s.phase = .dpTail) (hnone : s.ecode = .none) (h : dpTail s = .next t) :
    RaisesOnCause s t := by
  obtain rfl := dpTail_eq h
  exact raisesOnCause_of_quiet hnone fun _ => not_raisedFor (by simp [hp])

theorem EaScanStep.raisesOnCause (hp : s.phase = .eaScan) (hnone : s.ecode = .none) (h : EaScanStep s t) :
    RaisesOnCause s t := by
  have ht : t.ecode = .none := by cases h <;> exact hnone
  exact raisesOnCause_of_quiet ht fun _ => not_raisedFor (by simp [hp])

theorem daField_raisesOnCause (hp : s.phase = .daField) (hnone : s.ecode = .none) (h : daField s = .next t) :
    RaisesOnCause s t := by
  have hcause (e : ECode) := raisedFor_of_daField (e := e) hp
  by_cases hend : s.rp = s.srcLen
  · obtain rfl : s.goto .finish = t := by simpa [daField_of_end hend] using h
    exact raisesOnCause_of_quiet hnone fun e => by simp [hcause, hend]
  rw [daField_of_left hend] at h
  obtain ⟨hleft, rfl⟩ | ⟨hleft, rfl⟩ := arlField_cases h
  · exact raisesOnCause_of_raise fun e => by simp [hcause, hend, hleft]
  · exact raisesOnCause_of_quiet hnone fun e => by simp [hcause, Nat.not_lt.mpr hleft]

theorem finish_raisesOnCause (hp : s.phase = .finish) (hnone : s.ecode = .none) (h : finish s = .next t) :
    RaisesOnCause s t := by
  obtain ⟨-, rfl⟩ := (finish_eq_next s t).1 h
  exact raisesOnCause_of_quiet hnone fun _ => not_raisedFor (by simp [hp])

/-- Every rule of a pass keeps to the causes (R124, R140). -/
theorem phaseRule_raisesOnCause (hs : Inv s) (hidle : s.phase ≠ .idle) (hnone : s.ecode = .none)
    (h : phaseRule s = .next t) : RaisesOnCause s t := by
  unfold phaseRule at h
  cases hp : s.phase <;> rw [hp] at h
  case idle => exact absurd hp hidle
  case epCheck => exact epCheck_raisesOnCause hp hnone h
  case epHdr => exact epHdr_raisesOnCause hp hnone h
  case epScan => exact (epScan_cases h).raisesOnCause (hs.running hp (by decide))
  case dpHdr => exact dpHdr_raisesOnCause hp hnone h
  case dpRun => exact dpRun_raisesOnCause (hs.running hp (by decide)) h
  case dpTail => exact dpTail_raisesOnCause hp hnone h
  case eaScan => exact (eaScan_cases h).raisesOnCause hp hnone
  case daField => exact daField_raisesOnCause hp hnone h
  case finish => exact finish_raisesOnCause hp hnone h

/-- Settles O33: the step is the rule of the phase, which raises the exception of the phase on its cause and on nothing
else. -/
theorem errorsRaisedExactlyOnCause : Obligations.ErrorsRaisedExactlyOnCause := by
  intro s t e hs hb hno hnone h he
  exact phaseRule_raisesOnCause hs ((busy_iff s).1 hb) hnone (step_eq_phaseRule hno ▸ h) e he

end Sys2Proof.Machine
end

section
/-! PROOF. What the host reads during a pass and after an error (60_exceptions.md R142, 70_reset_and_hazards.md R162). -/

namespace Sys2Proof.Machine

variable {s : State}

/-- During a pass and after an error the result registers mean nothing to the host (93 U1, U2). -/
theorem readable_eq_false (h : s.busy = true ∨ s.ecode ≠ .none) : s.readable = false := by
  obtain hb | he := h
  · simp [State.readable, hb]
  · simp [State.readable, (err_iff s).2 he]

theorem srcPosRead_of_unreadable (h : s.readable = false) :
    s.srcPosRead = Config.freeSrcPos s.fresh % 2 ^ Config.lenW := if_neg (ne_true_of_eq_false h)

theorem snkLenRead_of_unreadable (h : s.readable = false) :
    s.snkLenRead = Config.freeSnkLen s.fresh % 2 ^ Config.snkLenW := if_neg (ne_true_of_eq_false h)

theorem snkbRead_of_unreadable (h : s.readable = false) : s.snkbRead = Config.freeSnkb s.fresh :=
  if_neg (ne_true_of_eq_false h)

/-- Settles O12: `SRC_POS`, `SNK_LEN` and `SNKB` read values free of the state, and no other register reads `RP` or the
sink. -/
theorem unreadableTellsNothing : Obligations.UnreadableTellsNothing := by
  intro s rp snk snkb reg h
  have hs : s.readable = false := readable_eq_false h
  have ht : State.readable { s with rp := rp, snk := snk, snkb := snkb } = false := hs
  refine ⟨?_, (snkbRead_of_unreadable ht).trans (snkbRead_of_unreadable hs).symm⟩
  unfold State.regRead
  split
  · rfl
  · rfl
  · rfl
  · exact (srcPosRead_of_unreadable ht).trans (srcPosRead_of_unreadable hs).symm
  · exact (snkLenRead_of_unreadable ht).trans (snkLenRead_of_unreadable hs).symm
  · rfl

end Sys2Proof.Machine
end

section
/-! PROOF. The host's protocol around a pass (70_reset_and_hazards.md): supplying the source (R156, R161), and the
expanding pass over the bytes that a compressing pass delivered (R158). -/

namespace Sys2Proof.Machine

variable {s t u : State} {out : List Bit} {r : PassResult}

/-! ## Supplying the source -/

/-- With the host supplying bytes, a step is that operation (R156). -/
theorem step_supply {bytes : List Byte} {ops : List HostOp} (h : s.inbox = .supply bytes :: ops) :
    step s = supply bytes (s.withInbox ops) := step_of_op s _ ops h

/-- During a pass the model has no move for a change of the bytes (R161). -/
theorem supply_of_busy {bytes : List Byte} (hb : s.busy = true) :
    supply bytes s = .refused .sourceChangedDuringPass := if_pos hb

/-- Settles O15: the operation tests `BUSY` alone. -/
theorem supplySource : Obligations.SupplySource := by
  intro s bytes ops h
  rw [step_supply h]
  exact ⟨fun hb => supply_eq_next.2 ⟨hb, rfl⟩, fun hb => supply_of_busy (s := s.withInbox ops) hb⟩

/-! ## A pass over the bytes of another -/

/-- The source of a pass has `SRC_LEN` bits (R123). -/
theorem PassReady.length_payload (h : PassReady s) : s.payload.length = s.srcLen := by
  obtain ⟨-, -, -, hbytes⟩ := h
  rw [State.payload, length_unpack, min_eq_left hbytes]

/-- A sink of whole bytes, handed over as it was packed, is the source of the pass that follows (R82, R158). -/
theorem payload_of_packed (hwhole : out.length % 8 = 0) (hbytes : u.srcb = pack out)
    (hlen : u.srcLen = 8 * u.srcb.length) : u.payload = out := by
  have hsrcLen : u.srcLen = out.length := by rw [hlen, hbytes, length_pack]; omega
  rw [State.payload, hbytes, hsrcLen, unpack_pack]

/-- What a completed pass without an error shows the host (R127). -/
theorem PassEnds.of_ok (h : PassEnds r s t) (hr : r = .ok out) :
    t.statusWord = 2 ∧ t.snk = out ∧ t.snkbRead = pack out ∧ t.snkLenRead = out.length := by
  subst hr
  obtain ⟨-, -, hstatus, hsnk, hbytes, hlen, -⟩ := h
  exact ⟨hstatus, hsnk, hbytes, hlen⟩

/-- R158 for the pass of `enc` that starts at `s`: it ends without an error, and so does every pass of `dec` over the
bytes collected from it, with the payload and its length as the result. -/
def Undoes (dec enc : Instr) (s : State) : Prop :=
  ∃ k t, andThen (exec enc s) (run k) = .next t ∧ t.statusWord = 2 ∧
    ∀ u : State, PassReady u → u.srcb = t.snkbRead → u.srcLen = 8 * u.srcb.length →
      ∃ k' v, andThen (exec dec u) (run k') = .next v ∧ v.statusWord = 2 ∧ v.snk = s.payload ∧
        v.snkLenRead = s.srcLen

/-- Passes undo each other if the functions that they compute do, the encoded stream being whole bytes: packing it adds
no bits that the decoder would read. -/
theorem undoes_of_passComputes {enc dec : Instr} {f g : List Bit → PassResult} (hf : PassComputes enc f)
    (hg : PassComputes dec g) (hs : PassReady s) (hencode : f s.payload = .ok out) (hwhole : out.length % 8 = 0)
    (hdecode : g out = .ok s.payload) : Undoes dec enc s := by
  obtain ⟨k, t, -, hrun, -, hends⟩ := hf s hs
  obtain ⟨hstatus, -, hcollected, -⟩ := hends.of_ok hencode
  refine ⟨k, t, hrun, hstatus, fun u hu hbytes hlen => ?_⟩
  have hsource : u.payload = out := payload_of_packed hwhole (hbytes.trans hcollected) hlen
  obtain ⟨k', v, -, hrun', -, hends'⟩ := hg u hu
  obtain ⟨hstatus', hsnk, -, hsnkLen⟩ := hends'.of_ok ((congrArg g hsource).trans hdecode)
  exact ⟨k', v, hrun', hstatus', hsnk, hsnkLen.trans hs.length_payload⟩

/-- Settles O49: the header and the records are whole bytes, and `DecPL` undoes `EncPL` on its domain. -/
theorem expandUndoesCompressA : Obligations.ExpandUndoesCompressA := by
  intro s hs hlen hruns
  obtain ⟨hdomain, -⟩ := roundTripA s.payload
  obtain ⟨out, hencode, hdecode⟩ := hdomain (hs.length_payload.trans_le hlen) hruns
  obtain ⟨hbits, -⟩ := length_encPL hencode
  have hwhole : out.length % 8 = 0 := by omega
  exact undoes_of_passComputes encPlPass decPlPass hs hencode hwhole hdecode

/-- Settles O50: the fields are bytes, and `DecARL` undoes `EncARL` on every payload. -/
theorem expandUndoesCompressB : Obligations.ExpandUndoesCompressB := by
  intro s hs
  have hwhole : (encARL s.payload).length % 8 = 0 := by rw [length_encARL, Nat.mul_mod_right]
  exact undoes_of_passComputes encArlPass decArlPass hs rfl hwhole (roundTripB s.payload)

end Sys2Proof.Machine
end
